-- ==== Sys2Proof/Word.lean ====
section
/-! DEFINITION. The word types of the engine (00_scope.md R8: a byte is 8 bits, a word is 32 bits, all unsigned;
30_encoding.md R80: a command is 16 bits). -/

namespace Sys2Proof

/-- A byte, `0..255` (R8). -/
abbrev Byte := BitVec 8

/-- A word of the key schedule, 32 bits (R8, R23). -/
abbrev Word := BitVec 32

/-- A command word `cmd[15:0]` (R80). -/
abbrev CmdWord := BitVec 16

/-- Sixteen bytes in index order: the State register, the key buffer, a plaintext block (R6, R21, R22). -/
abbrev Block := Vector Byte 16

/-- The key schedule register file `w[0..43]` (R23). -/
abbrev Schedule := Vector Word 44

end Sys2Proof
end

