-- ==== Sys2Proof/Syntax.lean ====
section
/-! DEFINITION. The instructions: one constructor for each row of spec/opcode_table.json, seven host commands
(30_encoding.md R83) and eight micro-operations of the controller (R86). -/

namespace Sys2Proof

/-- The padding scheme START's `M` selects: 0 is PKCS#7, 1 is ANSI X.923 (R37, R80). -/
inductive PadMode where
  | pkcs7
  | x923
deriving DecidableEq, Repr

/-- The instructions of the engine. Operand types admit exactly the values the encoding admits (R82). -/
inductive Instr where
  /-- NOP (R101). -/
  | nop
  /-- KEY_CLR (R102). -/
  | keyClr
  /-- KEY_WR `D` (R103). -/
  | keyWr (d : Byte)
  /-- START `M` (R104, R105). -/
  | start (m : PadMode)
  /-- MSG_WR `D` (R108). -/
  | msgWr (d : Byte)
  /-- MSG_END (R109, R110). -/
  | msgEnd
  /-- ERR_CLR (R112). -/
  | errClr
  /-- ECHO micro-operation (R201). -/
  | echo
  /-- KEXP micro-operation (R146). -/
  | kexp
  /-- RINIT micro-operation (R182). -/
  | rinit
  /-- RSUB micro-operation (R183). -/
  | rsub
  /-- RSHIFT micro-operation (R184). -/
  | rshift
  /-- RMIX micro-operation (R185). -/
  | rmix
  /-- RADD micro-operation (R186). -/
  | radd
  /-- EMIT micro-operation (R203). -/
  | emit
deriving DecidableEq, Repr

end Sys2Proof
end

