-- ==== Sys2Proof/Decode.lean ====
section
/-! DEFINITION. The decoder, total on any bits and rejecting by name, and after it the encoder
(30_encoding.md R80 to R86). Commands are one 16-bit word; micro-operations are the 4-bit `fsm` codes. -/

namespace Sys2Proof

/-- What a decoder reads: a command word of the port (format CMD), or a controller code (format FSM). -/
inductive Encoded where
  | cmd (w : CmdWord)
  | fsm (c : BitVec 4)
deriving DecidableEq, Repr

/-- Why bits name no instruction. The first four are the illegal commands of R85. -/
inductive Reject where
  /-- Opcode 0x7..0xF (R83, R85). -/
  | reservedOpcode
  /-- `RSV` is not 000 (R80, R85). -/
  | reservedBits
  /-- `M` is set outside START (R80, R85). -/
  | modeBit
  /-- `D` is not 0x00 outside KEY_WR and MSG_WR (R80, R85). -/
  | dataByte
  /-- Codes 0x0 and 0x3, `IDLE` and `ACCEPT`: no micro-operation, the engine waits for a command (R86). -/
  | waitsForCommand
  /-- Codes 0xA..0xF name no state (R29). -/
  | noState
deriving DecidableEq, Repr

/-- Field `OP`, bits 15:12 (R80). -/
def fieldOP (w : CmdWord) : BitVec 4 := w.extractLsb' 12 4

/-- Field `RSV`, bits 11:9 (R80). -/
def fieldRSV (w : CmdWord) : BitVec 3 := w.extractLsb' 9 3

/-- Field `M`, bit 8 (R80). -/
def fieldM (w : CmdWord) : BitVec 1 := w.extractLsb' 8 1

/-- Field `D`, bits 7:0 (R80). -/
def fieldD (w : CmdWord) : Byte := w.extractLsb' 0 8

/-- `M` as a padding mode: 0 PKCS#7, 1 X.923 (R80). -/
def padModeOfBit (b : BitVec 1) : PadMode :=
  if b = 0#1 then .pkcs7 else .x923

/-- A padding mode as the bit `M` (R80). -/
def bitOfPadMode : PadMode → BitVec 1
  | .pkcs7 => 0#1
  | .x923 => 1#1

/-- The check that every field a command does not use is zero: `RSV` always, `M` outside START, `D` outside
KEY_WR and MSG_WR (R85). -/
def unusedFieldsZero (usesM usesD : Bool) (w : CmdWord) (i : Instr) : Except Reject Instr :=
  if fieldRSV w ≠ 0#3 then .error .reservedBits
  else if usesM = false ∧ fieldM w ≠ 0#1 then .error .modeBit
  else if usesD = false ∧ fieldD w ≠ 0#8 then .error .dataByte
  else .ok i

/-- The command decoder of R84. It reads no state. -/
def decodeCmd (w : CmdWord) : Except Reject Instr :=
  match (fieldOP w).toNat with
  | 0x0 => unusedFieldsZero false false w .nop
  | 0x1 => unusedFieldsZero false false w .keyClr
  | 0x2 => unusedFieldsZero false true w (.keyWr (fieldD w))
  | 0x3 => unusedFieldsZero true false w (.start (padModeOfBit (fieldM w)))
  | 0x4 => unusedFieldsZero false true w (.msgWr (fieldD w))
  | 0x5 => unusedFieldsZero false false w .msgEnd
  | 0x6 => unusedFieldsZero false false w .errClr
  | _ => .error .reservedOpcode

/-- The micro-operation a controller code selects (R86). -/
def decodeMicro (c : BitVec 4) : Except Reject Instr :=
  match c.toNat with
  | 0x0 => .error .waitsForCommand
  | 0x1 => .ok .echo
  | 0x2 => .ok .kexp
  | 0x3 => .error .waitsForCommand
  | 0x4 => .ok .rinit
  | 0x5 => .ok .rsub
  | 0x6 => .ok .rshift
  | 0x7 => .ok .rmix
  | 0x8 => .ok .radd
  | 0x9 => .ok .emit
  | _ => .error .noState

/-- The decoder over both formats. -/
def decode : Encoded → Except Reject Instr
  | .cmd w => decodeCmd w
  | .fsm c => decodeMicro c

/-- The instruction read from the bits `w` of an opcode-table row of `nbits` bits: a row of format FSM has 4 bits
(one whole byte with a zero upper half), a row of format CMD has 16 (log entry 13). -/
def decodeTableWord (nbits w : Nat) : Option Instr :=
  if nbits ≤ 8 then
    if w < 16 then (decodeMicro (BitVec.ofNat 4 w)).toOption else none
  else if nbits = 16 ∧ w < 65536 then (decodeCmd (BitVec.ofNat 16 w)).toOption
  else none

/-- A command word from its fields (R80). -/
def cmdWord (op : BitVec 4) (m : BitVec 1) (d : Byte) : CmdWord :=
  op ++ 0#3 ++ m ++ d

/-- The encoder, from the opcode map R83 and the controller codes R86. -/
def encode : Instr → Encoded
  | .nop => .cmd (cmdWord 0x0#4 0#1 0x00#8)
  | .keyClr => .cmd (cmdWord 0x1#4 0#1 0x00#8)
  | .keyWr d => .cmd (cmdWord 0x2#4 0#1 d)
  | .start m => .cmd (cmdWord 0x3#4 (bitOfPadMode m) 0x00#8)
  | .msgWr d => .cmd (cmdWord 0x4#4 0#1 d)
  | .msgEnd => .cmd (cmdWord 0x5#4 0#1 0x00#8)
  | .errClr => .cmd (cmdWord 0x6#4 0#1 0x00#8)
  | .echo => .fsm 0x1#4
  | .kexp => .fsm 0x2#4
  | .rinit => .fsm 0x4#4
  | .rsub => .fsm 0x5#4
  | .rshift => .fsm 0x6#4
  | .rmix => .fsm 0x7#4
  | .radd => .fsm 0x8#4
  | .emit => .fsm 0x9#4

/-- The bits of an encoding as a 16-bit number (a controller code in the low four bits). -/
def Encoded.bits : Encoded → CmdWord
  | .cmd w => w
  | .fsm c => c.setWidth 16

/-- One row of the opcode map R83: a word belongs to the row when its masked bits are the pattern. -/
structure OpcodeRow where
  mnemonic : String
  pattern : CmdWord
  mask : CmdWord
deriving DecidableEq, Repr

/-- The opcode map R83 as masks and patterns. -/
def opcodeMap : List OpcodeRow :=
  [ ⟨"NOP", 0x0000#16, 0xFFFF#16⟩,
    ⟨"KEY_CLR", 0x1000#16, 0xFFFF#16⟩,
    ⟨"KEY_WR", 0x2000#16, 0xFF00#16⟩,
    ⟨"START", 0x3000#16, 0xFEFF#16⟩,
    ⟨"MSG_WR", 0x4000#16, 0xFF00#16⟩,
    ⟨"MSG_END", 0x5000#16, 0xFFFF#16⟩,
    ⟨"ERR_CLR", 0x6000#16, 0xFFFF#16⟩ ]

/-- Whether a word lies in a row of the opcode map (R83). -/
def OpcodeRow.covers (r : OpcodeRow) (w : CmdWord) : Bool :=
  w &&& r.mask == r.pattern

end Sys2Proof
end

