-- ==== Sys2Proof/Config.lean ====
section
/-! DEFINITION. What the spec leaves open or fixes for one engine: the parameter OUT_DEPTH at reset and the free
values. A free value is an opaque constant: no proof can see what it is. -/

namespace Sys2Proof

/-- `OUT_DEPTH` in `State.reset`. The parameter is open (R6, R7, U1); it lives in `State.outDepth` and every
statement is about every depth. DESIGN CHOICE (log entry 3): 32 in the one state `State.reset`. -/
def Config.resetOutDepth : Nat := 32

/-- The unspecified byte `j` of register `r` (0 is `st`, 1 is `key`) after the `n`-th reset (R49, R250, U2).
A free value: nothing constrains it (log entry 4). -/
opaque Config.unspecifiedByte : Nat → Nat → Nat → Byte

/-- The unspecified word `i` of `w` after the `n`-th reset (R49, R250, U2). A free value (log entry 4). -/
opaque Config.unspecifiedWord : Nat → Nat → Word

/-- `RCON(n)` at an index outside 1..10, which the spec says is never read (R27, R145). A free value
(log entries 8, 14). -/
opaque Config.rconOutside : Nat → Byte

/-- What `msg_cnt` holds after MSG_WR `D` counted past 16, which the spec says never happens (R32, R38). A free value
within the counter's range (log entry 8). -/
opaque Config.msgCntPast : Byte → Fin 17

/-- The word `d` places before `w[i]` where the register file has none (R33, R61). A free value (log entry 8). -/
opaque Config.wordBelow : Nat → Nat → Word

end Sys2Proof
end

