-- ==== Sys2Proof/Machine/State.lean ====
section
/-! DEFINITION. The machine's state as plain data (10_state.md), its stop reasons, and the state after reset. -/

namespace Sys2Proof.Machine

/-- The controller state `fsm`, exactly the ten states of R28. The codes 0xA..0xF name no state (R29, log
entry 10). -/
inductive Fsm where
  /-- Quiescent, between encryption calls (code 0x0). -/
  | idle
  /-- Emits the key echo (0x1). -/
  | echo
  /-- Computes `w[kx_i]` (0x2). -/
  | kexp
  /-- Quiescent, collecting message bytes (0x3). -/
  | accept
  /-- Initial AddRoundKey (0x4). -/
  | rinit
  /-- SubBytes (0x5). -/
  | rsub
  /-- ShiftRows (0x6). -/
  | rshift
  /-- MixColumns (0x7). -/
  | rmix
  /-- AddRoundKey (0x8). -/
  | radd
  /-- Emits the ciphertext (0x9). -/
  | emit
deriving DecidableEq, Repr

/-- The tag of an output entry: 0 ciphertext, 1 key echo (R43). -/
inductive Tag where
  | ciphertext
  | keyEcho
deriving DecidableEq, Repr

/-- An output entry `{tag, c}` of 9 bits (R43). -/
structure OutEntry where
  tag : Tag
  char : Byte
deriving DecidableEq, Repr

/-- What the host drives on the input ports in one clock cycle (R250, R260, R206, R262). -/
structure HostCycle where
  /-- The reset input `rst` (R250). -/
  rst : Bool
  /-- `cmd_valid` with the word on `cmd[15:0]`, or no valid command. -/
  cmd : Option CmdWord
  /-- A host that holds keeps a word until it is accepted (its duty, R260); one that does not has withdrawn it. -/
  hold : Bool
  /-- `out_ready`: the host pops if an entry is valid (R206). -/
  outReady : Bool
deriving DecidableEq, Repr

/-- The two error causes (R221). -/
inductive ErrCause where
  /-- `ErrKeyLength`, code 1: START with `key_len` not 16. -/
  | keyLength (n : Fin 18)
  /-- `ErrIllegalCmd`, code 2: an undecodable word, or a command its state does not allow. -/
  | illegalCmd (word : CmdWord)
deriving DecidableEq, Repr

/-- The only model faults the spec allows (R230). The engine's own errors are not here: they are recorded outcomes. No
step raises either fault. -/
inductive Fault where
  /-- A read of an entry of `st`, `key` or `w` that counts as unwritten (R51). Raised by no meaning: every register
  holds a value, and the read gives it (log entry 5). Safe; the case is kept as `State.ReadsWritten`. -/
  | unwrittenRead
  /-- An `fsm` code that names no state (R29). Raised by no meaning: `Fsm` has the ten states only (log entry 10).
  Safe. -/
  | noState
deriving DecidableEq, Repr

/-- Why the model gives an instruction no meaning. -/
inductive Refusal where
  /-- Raised by `exec` for an instruction that has no meaning yet. Safe. No arm uses it. -/
  | notModelled (mnemonic : String)
deriving DecidableEq, Repr

/-- The state of the engine (10_state.md section 1), of the one open parameter, and of the host that drives it. -/
structure State where
  /-- State register `st[0..15]` (R21). -/
  st : Block
  /-- Key buffer `key[0..15]` (R22). -/
  key : Block
  /-- Key schedule register file `w[0..43]` (R23). -/
  w : Schedule
  /-- Controller state (R28). -/
  fsm : Fsm
  /-- `key_len`, 0..17; 17 means more than 16 (R31). -/
  keyLen : Fin 18
  /-- `msg_cnt`, 0..16 (R32). -/
  msgCnt : Fin 17
  /-- `kx_i`, at most 43 (R33). -/
  kxI : Fin 44
  /-- `round`, 0..10 (R34). -/
  round : Fin 11
  /-- `idx`, 0..31 (R35). -/
  idx : Fin 32
  /-- `last` (R36). -/
  last : Bool
  /-- `pad_mode` (R37). -/
  padMode : PadMode
  /-- `done` (R39). -/
  done : Bool
  /-- `err_key_len` (R40). -/
  errKeyLen : Bool
  /-- `err_cmd` (R41). -/
  errCmd : Bool
  /-- `err_word` (R42). -/
  errWord : CmdWord
  /-- Output FIFO, head first (R43). -/
  outq : List OutEntry
  /-- `OUT_DEPTH` (R6, R7). No step writes it (log entry 3). -/
  outDepth : Nat
  /-- Which bytes of `st` count as written (R49, R50). -/
  stWr : Vector Bool 16
  /-- Which bytes of `key` count as written (R49, R50, R102). -/
  keyWr : Vector Bool 16
  /-- Which words of `w` count as written (R49, R50). -/
  wWr : Vector Bool 44
  /-- The host: what it drives in the coming cycles, the next one first (R262; log entry 1). -/
  host : List HostCycle
  /-- The host: the entries it has received, oldest first (R206; log entry 11). -/
  received : List OutEntry
  /-- Model's own: selects the unspecified contents the next reset leaves (log entry 4). -/
  freeCtr : Nat
deriving DecidableEq, Repr

/-- Sixteen unspecified bytes of register `r` after the `n`-th reset (R49). -/
def unspecifiedBlock (n r : Nat) : Block :=
  Vector.ofFn fun j : Fin 16 => Config.unspecifiedByte n r j

/-- The 44 unspecified words of `w` after the `n`-th reset (R49). -/
def unspecifiedSchedule (n : Nat) : Schedule :=
  Vector.ofFn fun i : Fin 44 => Config.unspecifiedWord n i

/-- The machine right after reset (R49, R253): a host that has driven and received nothing yet, and a FIFO of
`Config.resetOutDepth` entries. -/
def State.reset : State where
  st := unspecifiedBlock 0 0
  key := unspecifiedBlock 0 1
  w := unspecifiedSchedule 0
  fsm := .idle
  keyLen := 0
  msgCnt := 0
  kxI := 0
  round := 0
  idx := 0
  last := false
  padMode := .pkcs7
  done := false
  errKeyLen := false
  errCmd := false
  errWord := 0x0000#16
  outq := []
  outDepth := Config.resetOutDepth
  stWr := Vector.ofFn fun _ => false
  keyWr := Vector.ofFn fun _ => false
  wWr := Vector.ofFn fun _ => false
  host := []
  received := []
  freeCtr := 1

end Sys2Proof.Machine
end

