-- ==== Sys2Proof/Machine/Flags.lean ====
section
/-! DEFINITION. The flags and outputs computed from the state: controller codes, handshake signals, STATUS, ERRINFO,
the output port, and which command is legal in which controller state (10_state.md R28, R30, R44 to R46;
40_commands.md R100). -/

namespace Sys2Proof.Machine

/-- The 4-bit code of a controller state (R28). -/
def Fsm.code : Fsm → BitVec 4
  | .idle => 0x0#4
  | .echo => 0x1#4
  | .kexp => 0x2#4
  | .accept => 0x3#4
  | .rinit => 0x4#4
  | .rsub => 0x5#4
  | .rshift => 0x6#4
  | .rmix => 0x7#4
  | .radd => 0x8#4
  | .emit => 0x9#4

/-- The controller state a code names; 0xA..0xF name none (R28, R29). -/
def Fsm.ofCode (c : BitVec 4) : Option Fsm :=
  match c.toNat with
  | 0x0 => some .idle
  | 0x1 => some .echo
  | 0x2 => some .kexp
  | 0x3 => some .accept
  | 0x4 => some .rinit
  | 0x5 => some .rsub
  | 0x6 => some .rshift
  | 0x7 => some .rmix
  | 0x8 => some .radd
  | 0x9 => some .emit
  | _ => none

/-- Quiescent: `IDLE` or `ACCEPT` (R30). -/
def Fsm.quiescent : Fsm → Bool
  | .idle | .accept => true
  | .echo | .kexp | .rinit | .rsub | .rshift | .rmix | .radd | .emit => false

/-- The host's inputs in a cycle for which it has nothing planned: no reset, no valid command, no pop
(DESIGN CHOICE, log entry 2). -/
def idleCycle : HostCycle :=
  { rst := false, cmd := none, hold := true, outReady := false }

/-- What the input ports carry in the coming cycle. -/
def State.ports (s : State) : HostCycle :=
  s.host.headD idleCycle

/-- `cmd_ready` (R30, R251). -/
def State.cmdReady (s : State) : Bool :=
  !s.ports.rst && s.fsm.quiescent

/-- `outq` has room for one more entry (R205). -/
def State.canPush (s : State) : Bool :=
  decide (s.outq.length < s.outDepth)

/-- The output port: the head of `outq` when `out_valid`; when `out_valid` is 0, tag and data have no meaning
(R46, R251). -/
def State.outPort (s : State) : Option OutEntry :=
  if s.ports.rst then none else s.outq.head?

/-- `out_valid` (R46). -/
def State.outValid (s : State) : Bool :=
  s.outPort.isSome

/-- The STATUS word (R44): bits 15:13 zero, 12:8 KEY_LEN, 7 OUT_FULL, 6 OUT_EMPTY, 5 PAD_MODE, 4 ERR_CMD,
3 ERR_KEY_LEN, 2 DONE, 1 ACCEPT, 0 BUSY. -/
def State.status (s : State) : BitVec 16 :=
  0#3 ++ BitVec.ofNat 5 s.keyLen.val ++ BitVec.ofBool (decide (s.outq.length = s.outDepth))
    ++ BitVec.ofBool s.outq.isEmpty ++ bitOfPadMode s.padMode ++ BitVec.ofBool s.errCmd
    ++ BitVec.ofBool s.errKeyLen ++ BitVec.ofBool s.done ++ BitVec.ofBool (s.fsm == .accept)
    ++ BitVec.ofBool (!s.fsm.quiescent)

/-- The ERRINFO word (R45). -/
def State.errInfo (s : State) : BitVec 16 :=
  s.errWord

/-- The table of R100: which command is legal in which controller state. Commands are accepted only in `IDLE` and
`ACCEPT`; a micro-operation is no command. -/
def legalIn : Instr → Fsm → Bool
  | .nop, f | .errClr, f => f.quiescent
  | .keyClr, f | .keyWr _, f | .start _, f => f == .idle
  | .msgWr _, f | .msgEnd, f => f == .accept
  | .echo, _ | .kexp, _ | .rinit, _ | .rsub, _ | .rshift, _ | .rmix, _ | .radd, _ | .emit, _ => false

end Sys2Proof.Machine
end

