-- ==== Sys2Proof/Machine/Operands.lean ====
section
/-! DEFINITION. How operands are formed: byte packing, round-key bytes, the nibble an output index selects, and the
counters' increment (20_memory.md R62, R63; 10_state.md R24, R35, R38; 30_encoding.md R82). -/

namespace Sys2Proof.Machine

/-- A word from its four bytes, the first in bits 31..24 (R62). -/
def packWord (b0 b1 b2 b3 : Byte) : Word :=
  b0 ++ b1 ++ b2 ++ b3

/-- Byte `j` of a word, the most significant first: `bytes(v)` of R24 and R62. -/
def wordByte (v : Word) (j : Fin 4) : Byte :=
  v.extractLsb' (8 * (3 - j.val)) 8

/-- Word `c` of the key buffer, `{key[4c], key[4c+1], key[4c+2], key[4c+3]}` (R62). -/
def keyWord (key : Block) (c : Fin 4) : Word :=
  packWord key[4 * c.val] key[4 * c.val + 1] key[4 * c.val + 2] key[4 * c.val + 3]

/-- Byte `j` of round key `r`: byte `j mod 4` of word `w[4r + j/4]` (R24). -/
def roundKeyByte (w : Schedule) (r : Fin 11) (j : Fin 16) : Byte :=
  wordByte (w[4 * r.val + j.val / 4]'(by have := r.isLt; have := j.isLt; omega))
    ⟨j.val % 4, Nat.mod_lt _ (by decide)⟩

/-- The word `d` places before `w[i]`, as the recurrence reads it (R144). Before `w[0]` there is no word and the value
is free (R61; log entry 8). -/
def wordBefore (w : Schedule) (i : Fin 44) (d : Nat) : Word :=
  if d ≤ i.val then w[i.val - d] else Config.wordBelow i.val d

/-- Nibble `idx` of sixteen bytes: byte `idx / 2`, its high nibble when `idx` is even (R201, R203). -/
def nibbleAt (b : Block) (idx : Fin 32) : BitVec 4 :=
  let byte := b[idx.val / 2]'(by have := idx.isLt; omega)
  if idx.val % 2 = 0 then hiNibble byte else loNibble byte

/-- The ASCII code of a lowercase hex digit (R200; codes PRESUMED from general knowledge by the spec itself, G2,
log entry 16). -/
def hexDigit (n : BitVec 4) : Byte :=
  if n ≤ 9#4 then 0x30#8 + n.setWidth 8 else 0x61#8 + (n.setWidth 8 - 10#8)

/-- A byte as exactly two hex digits, the high nibble's first (R200). -/
def hexByte (b : Byte) : List Byte :=
  [hexDigit (hiNibble b), hexDigit (loNibble b)]

/-- The 32 hex digits of sixteen bytes in index order (R202, R204). -/
def hexBlock (b : Block) : List Byte :=
  b.toList.flatMap hexByte

/-- The increment of a counter typed by its range. No counter wraps (R38): at its bound it stays. -/
def bump {n : Nat} (i : Fin (n + 1)) : Fin (n + 1) :=
  if h : i.val < n then ⟨i.val + 1, Nat.succ_lt_succ h⟩ else i

end Sys2Proof.Machine
end

