-- ==== Sys2Proof/Machine/Ops.lean ====
section
/-! DEFINITION. The named operations every meaning is made of: register-file writes, the output FIFO, raising and
clearing an error, accepting a command, taking a micro-step, and reset. -/

namespace Sys2Proof.Machine

/-- `st[j] <- b` (R10). -/
def State.writeSt (s : State) (j : Fin 16) (b : Byte) : State :=
  { s with st := s.st.set j b, stWr := s.stWr.set j true }

/-- `key[j] <- b` (R10). -/
def State.writeKey (s : State) (j : Fin 16) (b : Byte) : State :=
  { s with key := s.key.set j b, keyWr := s.keyWr.set j true }

/-- `w[i] <- v` (R10). -/
def State.writeW (s : State) (i : Fin 44) (v : Word) : State :=
  { s with w := s.w.set i v, wWr := s.wWr.set i true }

/-- `st <- f(st)`: a transform of the whole State register in place, every output byte computed from the old State
(43_round_transforms.md). The written marks stay (log entry 6). -/
def State.transformSt (s : State) (f : Block → Block) : State :=
  { s with st := f s.st }

/-- `fsm <- f` (R10). -/
def State.goto (s : State) (f : Fsm) : State :=
  { s with fsm := f }

/-- `push_out(tag, c)`: append at the tail (R205). Called only when there is room. -/
def State.pushOut (s : State) (tag : Tag) (c : Byte) : State :=
  { s with outq := s.outq ++ [{ tag := tag, char := c }] }

/-- A pop by the host: the head entry is removed and delivered (R206). A pop of an empty FIFO does not exist. -/
def State.popOut (s : State) : State :=
  { s with outq := s.outq.tail, received := s.received ++ s.outq.head?.toList }

/-- `raise`: the one way an error is taken (R222, R225). No trap: a sticky flag is set, an illegal word is captured
if it is the first since the last clear, and nothing else changes (R228, R229). -/
def State.raise (s : State) : ErrCause → State
  | .keyLength _ => { s with errKeyLen := true }
  | .illegalCmd word =>
    { s with errWord := if s.errCmd then s.errWord else word, errCmd := true }

/-- The return from an error: both flags and ERRINFO are cleared (R112, R229). -/
def State.clearErrors (s : State) : State :=
  { s with errKeyLen := false, errCmd := false, errWord := 0x0000#16 }

/-- A block is complete in `st`: hand it to the round controller (R108, R109, R110). -/
def State.beginBlock (s : State) (last : Bool) : State :=
  { s with last := last, round := 0, fsm := .rinit }

/-- Acceptance of a command (R100). Not quiescent: it is not accepted, not lost and not an error (R260, log
entry 7). Not legal in this state: `ErrIllegalCmd` with the command's own word (R225). Else it is performed. -/
def accept (i : Instr) (s : State) (perform : Host.Outcome State Fault Refusal) :
    Host.Outcome State Fault Refusal :=
  if s.fsm.quiescent then
    if legalIn i s.fsm then perform else .next (s.raise (.illegalCmd (encode i).bits))
  else .next s

/-- A micro-step is taken only in the controller state that selects it (R180, R181); elsewhere it is not enabled and
nothing happens (log entry 7). -/
def microStep (f : Fsm) (s : State) (perform : Host.Outcome State Fault Refusal) :
    Host.Outcome State Fault Refusal :=
  if s.fsm = f then perform else .next s

/-- Reset (R250): the reset values of R49, and nothing else. `st`, `key` and `w` become unspecified and count as
unwritten: fresh free values (log entry 4). Entries in `outq` are lost; what the host already received it keeps
(R252). -/
def State.applyReset (s : State) : State where
  st := unspecifiedBlock s.freeCtr 0
  key := unspecifiedBlock s.freeCtr 1
  w := unspecifiedSchedule s.freeCtr
  fsm := .idle
  keyLen := 0
  msgCnt := 0
  kxI := 0
  round := 0
  idx := 0
  last := false
  padMode := .pkcs7
  done := false
  errKeyLen := false
  errCmd := false
  errWord := 0x0000#16
  outq := []
  outDepth := s.outDepth
  stWr := Vector.ofFn fun _ => false
  keyWr := Vector.ofFn fun _ => false
  wWr := Vector.ofFn fun _ => false
  host := s.host
  received := s.received
  freeCtr := s.freeCtr + 1

end Sys2Proof.Machine
end

