-- ==== Sys2Proof/Machine/Cycle.lean ====
section
/-! DEFINITION. One clock cycle around an instruction: what the engine runs next, and what the host does in the same
cycle (70_reset_and_hazards.md R251, R260, R264, R265). -/

namespace Sys2Proof.Machine

/-- What the engine does in a cycle without reset. -/
inductive Fetched where
  /-- Quiescent and no valid command: the engine waits (R180). -/
  | wait
  /-- A word that names no command is accepted (R85, R225). -/
  | illegal (word : CmdWord)
  /-- An accepted command, or the micro-operation the controller code selects (R86, R100). -/
  | run (i : Instr)
deriving DecidableEq, Repr

/-- The engine's fetch: outside `IDLE` and `ACCEPT` the controller code selects the micro-operation (R86); in them the
word on the command port is decoded (R30, R84). -/
def State.fetch (s : State) : Fetched :=
  match decodeMicro s.fsm.code with
  | .ok i => .run i
  | .error _ =>
    match s.ports.cmd with
    | none => .wait
    | some word =>
      match decodeCmd word with
      | .ok i => .run i
      | .error _ => .illegal word

/-- What the host drives after this cycle: a cycle is used up, but a host that holds a word which was not accepted
(the engine not ready, or in reset) drives that word on (R251, R260). -/
def State.hostAfter (s : State) : List HostCycle :=
  if s.ports.cmd.isSome && !s.cmdReady && s.ports.hold then { s.ports with rst := false } :: s.host.tail
  else s.host.tail

/-- Whether the host pops in this cycle: `out_valid` and `out_ready` (R206, R251). -/
def State.pops (s : State) : Bool :=
  s.outValid && s.ports.outReady

/-- The end of a cycle that began in `s` and whose engine step gave `t`: the pop that was valid at its beginning, and
the host's next inputs. Full and empty are judged before the step (R264, R265). -/
def State.endCycle (s t : State) : State :=
  { (if s.pops then t.popOut else t) with host := s.hostAfter }

/-- The next state of an outcome, changed by `f`. -/
def onNext (f : State → State) : Host.Outcome State Fault Refusal → Host.Outcome State Fault Refusal
  | .next s => .next (f s)
  | .fault r => .fault r
  | .refused r => .refused r

/-- The host's cycle for one word of a stream: it holds the word until it is accepted and pops whenever an entry is
valid (R260, R261). -/
def streamCycle (word : CmdWord) : HostCycle :=
  { rst := false, cmd := some word, hold := true, outReady := true }

/-- A cycle in which the host only pops (R206). -/
def popCycle : HostCycle :=
  { rst := false, cmd := none, hold := true, outReady := true }

/-- A cycle in which the host drives no reset, does not pop, and presents `cmd` if any. -/
def wordCycle (cmd : Option CmdWord) : HostCycle :=
  { rst := false, cmd := cmd, hold := true, outReady := false }

/-- `s` with a command word on the port in the coming cycle. The engine accepts it at once only in a quiescent state;
a busy one is put in `IDLE` (log entry 13). -/
def State.presentCommand (s : State) (word : CmdWord) : State :=
  { s with
    fsm := if s.fsm.quiescent then s.fsm else .idle
    host := wordCycle (some word) :: s.host }

/-- `s` with the controller code `c`, which selects the micro-operation of the coming cycle, and no reset in it
(log entry 13). A code that names no state changes nothing. -/
def State.selectMicro (s : State) (c : BitVec 4) : State :=
  match Fsm.ofCode c with
  | none => s
  | some f =>
    { s with fsm := f, host := wordCycle none :: s.host }

end Sys2Proof.Machine
end

