-- ==== Sys2Proof/Machine/Padder.lean ====
section
/-! DEFINITION. The plaintext padder: the two schemes over a whole message, the split into blocks, and the padding of
the tail that MSG_END performs in `st` (41_padding.md R130 to R138). -/

namespace Sys2Proof.Machine

/-- PKCS#7 at block size 16 (R131). -/
def padPkcs7 (m : List Byte) : List Byte :=
  let k := 16 - m.length % 16
  m ++ List.replicate k (BitVec.ofNat 8 k)

/-- ANSI X.923 at block size 16, the source's variant: an aligned message gets nothing (R132). -/
def padX923 (m : List Byte) : List Byte :=
  if m.length % 16 = 0 then m
  else
    let k := 16 - m.length % 16
    m ++ List.replicate (k - 1) 0x00#8 ++ [BitVec.ofNat 8 k]

/-- `pad(s)` as `pad_mode` selects it (R136). -/
def pad : PadMode → List Byte → List Byte
  | .pkcs7 => padPkcs7
  | .x923 => padX923

/-- Block `j` of a padded sequence: bytes `16j .. 16j+15` (R134). Bytes past the end do not arise for `j` below
`length / 16`. -/
def blockAt (p : List Byte) (j : Nat) : Block :=
  Vector.ofFn fun i : Fin 16 => p.getD (16 * j + i.val) 0#8

/-- The blocks of a padded sequence, in order (R134). -/
def splitBlocks (p : List Byte) : List Block :=
  (List.range (p.length / 16)).map (blockAt p)

/-- The number of bytes to add, `k = 16 - msg_cnt`, as a byte (R109, R110). -/
def padByte (cnt : Fin 17) : Byte :=
  BitVec.ofNat 8 (16 - cnt.val)

/-- MSG_END's writes under PKCS#7: `st[j] <- k` for `j` in `msg_cnt..15` (R109). -/
def State.padTailPkcs7 (s : State) : State :=
  { s with
    st := Vector.ofFn fun j : Fin 16 => if j.val < s.msgCnt.val then s.st[j] else padByte s.msgCnt
    stWr := Vector.ofFn fun j : Fin 16 => if j.val < s.msgCnt.val then s.stWr[j] else true }

/-- MSG_END's writes under X.923 with a partial block: `st[j] <- 0` for `j` in `msg_cnt..14`, `st[15] <- k`
(R110). -/
def State.padTailX923 (s : State) : State :=
  { s with
    st := Vector.ofFn fun j : Fin 16 =>
      if j.val = 15 then padByte s.msgCnt else if j.val < s.msgCnt.val then s.st[j] else 0x00#8
    stWr := Vector.ofFn fun j : Fin 16 =>
      if j.val = 15 then true else if j.val < s.msgCnt.val then s.stWr[j] else true }

end Sys2Proof.Machine
end

