-- ==== Sys2Proof/Machine/Commands.lean ====
section
/-! DEFINITION. The meanings of the seven host commands (40_commands.md R100 to R112). -/

namespace Sys2Proof.Machine

/-- NOP: no effect (R101). -/
def execNop (s : State) : Host.Outcome State Fault Refusal :=
  accept .nop s (.next s)

/-- KEY_CLR: `key_len <- 0`; the bytes of `key` stay and no longer count as written (R102). -/
def execKeyClr (s : State) : Host.Outcome State Fault Refusal :=
  accept .keyClr s (.next { s with keyLen := 0, keyWr := Vector.ofFn fun _ => false })

/-- KEY_WR `D`: append one byte to the key; past 16 bytes the byte is discarded and `key_len` is 17 (R103). -/
def execKeyWr (d : Byte) (s : State) : Host.Outcome State Fault Refusal :=
  accept (.keyWr d) s <| .next <|
    if h : s.keyLen.val < 16 then { s.writeKey ⟨s.keyLen.val, h⟩ d with keyLen := bump s.keyLen }
    else { s with keyLen := 17 }

/-- START with a 16-byte key: `pad_mode`, `done`, `w[0..3]`, the counters, and on to ECHO (R105). -/
def State.startCall (s : State) (m : PadMode) : State :=
  let t := (((s.writeW 0 (keyWord s.key 0)).writeW 1 (keyWord s.key 1)).writeW 2 (keyWord s.key 2)).writeW 3
    (keyWord s.key 3)
  { t with padMode := m, done := false, msgCnt := 0, idx := 0, fsm := .echo }

/-- START `M`: the key length check (R104, R223), then the encryption call begins (R105). -/
def execStart (m : PadMode) (s : State) : Host.Outcome State Fault Refusal :=
  accept (.start m) s <| .next <|
    if s.keyLen = 16 then s.startCall m else s.raise (.keyLength s.keyLen)

/-- `st[msg_cnt] <- D; msg_cnt <- msg_cnt + 1` (R108). With `msg_cnt` = 16, which R32 rules out in `ACCEPT`, there is
no `st[16]` to write, and what the counter then holds is a free value (R38, R61; log entry 8). -/
def State.appendMsg (s : State) (d : Byte) : State :=
  if h : s.msgCnt.val < 16 then { s.writeSt ⟨s.msgCnt.val, h⟩ d with msgCnt := bump s.msgCnt }
  else { s with msgCnt := Config.msgCntPast d }

/-- MSG_WR `D`: append one plaintext byte; the sixteenth starts the block's encryption (R108). -/
def execMsgWr (d : Byte) (s : State) : Host.Outcome State Fault Refusal :=
  accept (.msgWr d) s <| .next <|
    let t := s.appendMsg d
    if t.msgCnt = 16 then t.beginBlock false else t

/-- MSG_END: pad and encrypt the final block as `pad_mode` says (R109, R110). Under X.923 an aligned message has no
final block and the call ends here. -/
def execMsgEnd (s : State) : Host.Outcome State Fault Refusal :=
  accept .msgEnd s <| .next <|
    match s.padMode with
    | .pkcs7 => { s.padTailPkcs7 with msgCnt := 16 }.beginBlock true
    | .x923 =>
      if s.msgCnt = 0 then { s with done := true, fsm := .idle }
      else { s.padTailX923 with msgCnt := 16 }.beginBlock true

/-- ERR_CLR: clear both error flags and ERRINFO (R112). -/
def execErrClr (s : State) : Host.Outcome State Fault Refusal :=
  accept .errClr s (.next s.clearErrors)

end Sys2Proof.Machine
end

