-- ==== Sys2Proof/Machine/KeySchedule.lean ====
section
/-! DEFINITION. The key schedule generator: word functions, the recurrence, and the meaning of KEXP
(42_key_schedule.md R140 to R149). -/

namespace Sys2Proof.Machine

/-- RotWord: cyclic left rotation by one byte (R140). -/
def rotWord (v : Word) : Word :=
  v.rotateLeft 8

/-- SubWord: each byte through the S-box (R142). -/
def subWord (v : Word) : Word :=
  packWord (sbox (wordByte v 0)) (sbox (wordByte v 1)) (sbox (wordByte v 2)) (sbox (wordByte v 3))

/-- The round-constant word, `RCON(n) << 24` (R143). -/
def rconWord (n : Nat) : Word :=
  (rcon n).setWidth 32 <<< 24

/-- Word `i` of the schedule from `w[i-1]` and `w[i-4]` (R144). -/
def scheduleWord (i : Nat) (prev back : Word) : Word :=
  back ^^^ (if i % 4 = 0 then subWord (rotWord prev) ^^^ rconWord (i / 4) else prev)

/-- The second loop of R144: `n` more words after the words `ws`. -/
def expandMore : Nat → List Word → List Word
  | 0, ws => ws
  | n + 1, ws =>
    let i := ws.length
    expandMore n (ws ++ [scheduleWord i (ws.getD (i - 1) 0) (ws.getD (i - 4) 0)])

/-- `expand(key)`: the 44 words of the key schedule (R144). -/
def expand (key : Block) : List Word :=
  expandMore 40 [keyWord key 0, keyWord key 1, keyWord key 2, keyWord key 3]

/-- KEXP: compute one key schedule word (R146). It waits on nothing. With `kx_i` below 4, which R33 rules out, the
words it would read before `w[0]` are free values (log entry 8). -/
def execKexp (s : State) : Host.Outcome State Fault Refusal :=
  microStep .kexp s <|
    let t := s.writeW s.kxI (scheduleWord s.kxI.val (wordBefore s.w s.kxI 1) (wordBefore s.w s.kxI 4))
    .next (if s.kxI.val = 43 then t.goto .accept else { t with kxI := bump s.kxI })

end Sys2Proof.Machine
end

