-- ==== Sys2Proof/Machine/Transforms.lean ====
section
/-! DEFINITION. The four round transforms and the cipher function, as functions from sixteen bytes to sixteen bytes
(43_round_transforms.md R162 to R170, 44_round_controller.md R188). -/

namespace Sys2Proof.Machine

/-- SubBytes: every byte through the S-box (R162). -/
def subBytes (s : Block) : Block :=
  Vector.ofFn fun j : Fin 16 => sbox s[j]

/-- ShiftRows: row `r` is rotated left by `r` columns; byte `r + 4c` comes from column `(c + r) mod 4` (R163). -/
def shiftRows (s : Block) : Block :=
  Vector.ofFn fun j : Fin 16 =>
    s[j.val % 4 + 4 * ((j.val / 4 + j.val % 4) % 4)]'(by omega)

/-- MixColumns of one column `[a0, a1, a2, a3]`, output byte `r` (R166). -/
def mixColumn (a0 a1 a2 a3 : Byte) : Fin 4 → Byte
  | 0 => xtime a0 ^^^ a3 ^^^ a2 ^^^ xtime a1 ^^^ a1
  | 1 => xtime a1 ^^^ a0 ^^^ a3 ^^^ xtime a2 ^^^ a2
  | 2 => xtime a2 ^^^ a1 ^^^ a0 ^^^ xtime a3 ^^^ a3
  | 3 => xtime a3 ^^^ a2 ^^^ a1 ^^^ xtime a0 ^^^ a0

/-- MixColumns of the State: `mixColumn` on the four columns independently (R167). -/
def mixColumns (s : Block) : Block :=
  Vector.ofFn fun j : Fin 16 =>
    have hj : j.val / 4 < 4 := by have := j.isLt; omega
    mixColumn s[4 * (j.val / 4)] s[4 * (j.val / 4) + 1] s[4 * (j.val / 4) + 2] s[4 * (j.val / 4) + 3]
      ⟨j.val % 4, Nat.mod_lt _ (by decide)⟩

/-- AddRoundKey with round key `r` of the schedule (R170). -/
def addRoundKey (s : Block) (w : Schedule) (r : Fin 11) : Block :=
  Vector.ofFn fun j : Fin 16 => s[j] ^^^ roundKeyByte w r j

/-- A full round: SubBytes, ShiftRows, MixColumns, AddRoundKey (R187). -/
def fullRound (w : Schedule) (s : Block) (r : Fin 11) : Block :=
  addRoundKey (mixColumns (shiftRows (subBytes s))) w r

/-- The cipher function (R188): round key 0, nine full rounds, a final round without MixColumns (R169). -/
def cipher (b : Block) (w : Schedule) : Block :=
  addRoundKey (shiftRows (subBytes ([1, 2, 3, 4, 5, 6, 7, 8, 9].foldl (fullRound w) (addRoundKey b w 0)))) w 10

end Sys2Proof.Machine
end

