-- ==== Sys2Proof/Machine/Output.lean ====
section
/-! DEFINITION. The meanings of ECHO and EMIT, and the output of a whole encryption call (45_output_formatter.md R200
to R208, 40_commands.md R106). -/

namespace Sys2Proof.Machine

/-- ECHO: push one character of the key echo; hold while `outq` is full (R201, R205). -/
def execEcho (s : State) : Host.Outcome State Fault Refusal :=
  microStep .echo s <| .next <|
    if s.canPush then
      let t := s.pushOut .keyEcho (hexDigit (nibbleAt s.key s.idx))
      if s.idx = 31 then { t with kxI := 4, fsm := .kexp } else { t with idx := bump s.idx }
    else s

/-- EMIT: push one character of the block's ciphertext; hold while `outq` is full; after the last one the call ends
or the next block's bytes are awaited (R203, R205). -/
def execEmit (s : State) : Host.Outcome State Fault Refusal :=
  microStep .emit s <| .next <|
    if s.canPush then
      let t := s.pushOut .ciphertext (hexDigit (nibbleAt s.st s.idx))
      if s.idx = 31 then
        if s.last then { t with msgCnt := 0, done := true, fsm := .idle }
        else { t with msgCnt := 0, fsm := .accept }
      else { t with idx := bump s.idx }
    else s

/-- The entries of sixteen bytes in hex under one tag (R202, R204). -/
def hexEntries (tag : Tag) (b : Block) : List OutEntry :=
  (hexBlock b).map fun c => { tag := tag, char := c }

/-- A list of 44 words as a register file. -/
def scheduleOfList (ws : List Word) : Schedule :=
  Vector.ofFn fun i : Fin 44 => ws.getD i.val 0

/-- The output entries of one encryption call (R106): the key echo, then the ciphertext of each block of the padded
message in order. -/
def callOutput (key : Block) (m : PadMode) (message : List Byte) : List OutEntry :=
  hexEntries .keyEcho key ++
    (splitBlocks (pad m message)).flatMap fun b =>
      hexEntries .ciphertext (cipher b (scheduleOfList (expand key)))

end Sys2Proof.Machine
end

