-- ==== Sys2Proof/Machine/Rounds.lean ====
section
/-! DEFINITION. The meanings of the five round micro-operations (44_round_controller.md R182 to R186). -/

namespace Sys2Proof.Machine

/-- RINIT: AddRoundKey with round key 0 (R182). -/
def execRinit (s : State) : Host.Outcome State Fault Refusal :=
  microStep .rinit s <|
    .next { s.transformSt (fun b => addRoundKey b s.w 0) with round := 1, fsm := .rsub }

/-- RSUB: SubBytes (R183). -/
def execRsub (s : State) : Host.Outcome State Fault Refusal :=
  microStep .rsub s (.next ((s.transformSt subBytes).goto .rshift))

/-- RSHIFT: ShiftRows; MixColumns follows in rounds below 10 (R184, R169). -/
def execRshift (s : State) : Host.Outcome State Fault Refusal :=
  microStep .rshift s
    (.next ((s.transformSt shiftRows).goto (if s.round.val < 10 then .rmix else .radd)))

/-- RMIX: MixColumns (R185). -/
def execRmix (s : State) : Host.Outcome State Fault Refusal :=
  microStep .rmix s (.next ((s.transformSt mixColumns).goto .radd))

/-- RADD: AddRoundKey with the current round's key; after round 10 the block is done (R186). -/
def execRadd (s : State) : Host.Outcome State Fault Refusal :=
  microStep .radd s <|
    let t := s.transformSt (fun b => addRoundKey b s.w s.round)
    .next (if s.round.val < 10 then { t with round := bump s.round, fsm := .rsub }
      else { t with idx := 0, fsm := .emit })

end Sys2Proof.Machine
end

