-- ==== Sys2Proof/Machine/Dispatch.lean ====
section
/-! DEFINITION. One arm per constructor of Instr (spec/opcode_table.json). -/

namespace Sys2Proof.Machine

def exec (i : Instr) (s : State) : Host.Outcome State Fault Refusal :=
  match i with
  | .nop => Sys2Proof.Machine.execNop s
  | .keyClr => Sys2Proof.Machine.execKeyClr s
  | .keyWr d => Sys2Proof.Machine.execKeyWr d s
  | .start m => Sys2Proof.Machine.execStart m s
  | .msgWr d => Sys2Proof.Machine.execMsgWr d s
  | .msgEnd => Sys2Proof.Machine.execMsgEnd s
  | .errClr => Sys2Proof.Machine.execErrClr s
  | .echo => Sys2Proof.Machine.execEcho s
  | .kexp => Sys2Proof.Machine.execKexp s
  | .rinit => Sys2Proof.Machine.execRinit s
  | .rsub => Sys2Proof.Machine.execRsub s
  | .rshift => Sys2Proof.Machine.execRshift s
  | .rmix => Sys2Proof.Machine.execRmix s
  | .radd => Sys2Proof.Machine.execRadd s
  | .emit => Sys2Proof.Machine.execEmit s

end Sys2Proof.Machine
end

