-- ==== Sys2Proof/Machine/Engine.lean ====
section
/-! DEFINITION. What the engine does in a cycle, with reset and without (R71, R180, R181, R250, R251). -/

namespace Sys2Proof.Machine

/-- What the engine itself does in a cycle without reset: the fetched instruction runs, an undecodable word raises
`ErrIllegalCmd`, and with no command there is nothing to do (R85, R100, R180). -/
def engineStep (s : State) : Host.Outcome State Fault Refusal :=
  match s.fetch with
  | .wait => .next s
  | .illegal word => .next (s.raise (.illegalCmd word))
  | .run i => exec i s

/-- One clock cycle. Reset takes precedence over every command, micro-step and pop (R251). -/
def cycle (s : State) : Host.Outcome State Fault Refusal :=
  if s.ports.rst then .next { s.applyReset with host := s.hostAfter }
  else onNext s.endCycle (engineStep s)

end Sys2Proof.Machine
end

