-- ==== Sys2Proof/Machine/Step.lean ====
section
/-! DEFINITION. One step of the machine: one clock cycle of the engine with what the host drives in it (R71, R180,
R251, R265), and how an instruction is put where the next step finds it. -/

namespace Sys2Proof.Machine

/-- One step is one clock cycle (R270). -/
def step (s : State) : Host.Outcome State Fault Refusal :=
  cycle s

/-- `s` with an instruction placed where the next step fetches it (log entry 13): a row of format FSM (4 bits) through
the controller state, a row of format CMD (16 bits) on the command port. -/
def State.withFetchWord (s : State) (nbits w : Nat) : State :=
  if nbits ≤ 8 then s.selectMicro (BitVec.ofNat 4 w) else s.presentCommand (BitVec.ofNat 16 w)

end Sys2Proof.Machine
end

