-- ==== Sys2Proof/WellFormed.lean ====
section
/-! DEFINITION. Which terms of the syntax are well formed. The operand types of `Instr` already admit exactly the
encodable values (a byte `D`, a bit `M`), so every term is an instruction; what remains to check is who may issue
it: the host issues commands only (30_encoding.md R86), and an assembler's numbers must be bytes (R87). -/

namespace Sys2Proof

/-- Whether an instruction is a host command: no command carries a micro-operation and the host cannot issue one
(R86). -/
def Instr.isCommand : Instr → Bool
  | .nop | .keyClr | .keyWr _ | .start _ | .msgWr _ | .msgEnd | .errClr => true
  | .echo | .kexp | .rinit | .rsub | .rshift | .rmix | .radd | .emit => false

/-- Well-formedness of an instruction as the opcode table has it. Every operand value of every constructor is
encodable (R80, R82), so no term is refused; the check is kept by constructor so that an operand wider than its
field could not slip in unseen. -/
def Instr.wellFormed : Instr → Bool
  | .keyWr d | .msgWr d => decide (d.toNat < 2 ^ 8)
  | .start m => m == .pkcs7 || m == .x923
  | .nop | .keyClr | .msgEnd | .errClr => true
  | .echo | .kexp | .rinit | .rsub | .rshift | .rmix | .radd | .emit => true

/-- Well-formedness of a program the host may send: commands only (R86, R262). -/
def wellFormedProgram (p : List Instr) : Bool :=
  p.all Instr.isCommand

/-- A number written as a `<byte>` in assembler text must be `0..255`, and so must a character's code point (R87). -/
def wellFormedByte (n : Nat) : Bool :=
  decide (n < 256)

end Sys2Proof
end

