-- ==== Sys2Proof/Machine/Assembler.lean ====
section
/-! DEFINITION. The assembler syntax of the spec: one command a line, pseudo-instructions and their expansions, `.word`
for any word, and the refusals (30_encoding.md R87, R88, R89; log entry 15). No step uses it. -/

namespace Sys2Proof.Machine

/-- A line of assembler text. Numbers and code points are as written; `assemble` refuses those that are too large. -/
inductive AsmLine where
  | blank
  | nop
  | keyClr
  | keyWr (byte : Nat)
  | start (m : PadMode)
  | msgWr (byte : Nat)
  | msgEnd
  | errClr
  /-- `.word`, the only way to write an illegal word (R87). -/
  | word (v : Nat)
  | keyLoad (bytes : List Byte)
  | msgHex (bytes : List Byte)
  | msgText (codes : List Nat)
  | encrypt (m : PadMode) (codes : List Nat)
  | encryptHex (m : PadMode) (bytes : List Byte)
deriving DecidableEq, Repr

/-- A number or a character's code point as a byte; a value above 255 is refused (R87, D24). -/
def byteOf (n : Nat) : Option Byte :=
  if wellFormedByte n then some (BitVec.ofNat 8 n) else none

/-- The expansion of a line into commands (R87, R88). `.word` is not a command and is handled by `assemble`. -/
def AsmLine.commands : AsmLine → Option (List Instr)
  | .blank => some []
  | .nop => some [.nop]
  | .keyClr => some [.keyClr]
  | .keyWr n => (byteOf n).map fun b => [.keyWr b]
  | .start m => some [.start m]
  | .msgWr n => (byteOf n).map fun b => [.msgWr b]
  | .msgEnd => some [.msgEnd]
  | .errClr => some [.errClr]
  | .word _ => none
  | .keyLoad bs => some (.keyClr :: bs.map .keyWr)
  | .msgHex bs => some (bs.map .msgWr)
  | .msgText cs => (cs.mapM byteOf).map fun bs => bs.map .msgWr
  | .encrypt m cs => (cs.mapM byteOf).map fun bs => .start m :: bs.map .msgWr ++ [.msgEnd]
  | .encryptHex m bs => some (.start m :: bs.map .msgWr ++ [.msgEnd])

/-- The words of a line (R87). -/
def AsmLine.assemble : AsmLine → Option (List CmdWord)
  | .word v => if v < 65536 then some [BitVec.ofNat 16 v] else none
  | line => line.commands.map fun is => is.map fun i => (encode i).bits

/-- A token of a line. -/
inductive AsmToken where
  | name (cs : List Char)
  | text (codes : List Nat)
  | quotedChar (code : Nat)
  | comma
deriving DecidableEq, Repr

/-- Blank space between tokens. -/
def isBlank (c : Char) : Bool :=
  c.toNat == 32 || c.toNat == 9 || c.toNat == 13

/-- A pending name, if any, before the rest. -/
def flushName (name : List Char) (rest : List AsmToken) : List AsmToken :=
  if name.isEmpty then rest else .name name.reverse :: rest

/-- The tokens of a line: a semicolon outside quotes starts a comment (59 `;`, 34 double quote, 39 quote, 44 comma).
`inText` holds the characters of an open text, last first; `name` those of an open name. DESIGN CHOICE (log entry 15):
a quote or a comma also ends the name before it, so that neither needs a blank around it. -/
def lex (inText : Option (List Nat)) (name : List Char) : List Char → Option (List AsmToken)
  | [] => if inText.isSome then none else some (flushName name [])
  | c :: cs =>
    match inText with
    | some acc =>
      if c.toNat = 34 then (lex none [] cs).map fun ts => .text acc.reverse :: ts
      else lex (some (c.toNat :: acc)) [] cs
    | none =>
      if c.toNat = 59 then some (flushName name [])
      else if c.toNat = 34 then (lex (some []) [] cs).map (flushName name)
      else if c.toNat = 44 then (lex none [] cs).map fun ts => flushName name (.comma :: ts)
      else if isBlank c then (lex none [] cs).map (flushName name)
      else if c.toNat = 39 then
        match cs with
        | d :: e :: rest =>
          if e.toNat = 39 then (lex none [] rest).map fun ts => flushName name (.quotedChar d.toNat :: ts) else none
        | _ => none
      else lex none (c :: name) cs

/-- A letter in upper case: mnemonics are case-insensitive (R87). -/
def upper (c : Char) : Nat :=
  if 97 ≤ c.toNat ∧ c.toNat ≤ 122 then c.toNat - 32 else c.toNat

/-- Whether a name is the given mnemonic, whatever its case (R87). -/
def isMnemonic (cs : List Char) (m : List Char) : Bool :=
  cs.map upper == m.map upper

/-- A hex digit's value. -/
def hexValue (c : Char) : Option Nat :=
  let n := c.toNat
  if 48 ≤ n ∧ n ≤ 57 then some (n - 48)
  else if 97 ≤ n ∧ n ≤ 102 then some (n - 87)
  else if 65 ≤ n ∧ n ≤ 70 then some (n - 55)
  else none

/-- Digits in a base, most significant first; refused if empty or if a digit is not of the base. DESIGN CHOICE
(log entry 15): any number of leading zeros, in either base. -/
def numberIn (base : Nat) (cs : List Char) : Option Nat :=
  if cs.isEmpty then none
  else cs.foldl (fun acc c => acc.bind fun a => (hexValue c).bind fun d =>
    if d < base then some (base * a + d) else none) (some 0)

/-- `0x..` or a decimal number (R87). DESIGN CHOICE (log entry 15): the prefix may also be written `0X`, which R87
does not say. -/
def number : List Char → Option Nat
  | z :: x :: rest =>
    if z.toNat = 48 ∧ (x.toNat = 120 ∨ x.toNat = 88) then numberIn 16 rest else numberIn 10 (z :: x :: rest)
  | cs => numberIn 10 cs

/-- `2n` hex digits as `n` bytes (R88). -/
def hexBytes : List Char → Option (List Byte)
  | [] => some []
  | [_] => none
  | a :: b :: rest =>
    match hexValue a, hexValue b, hexBytes rest with
    | some h, some l, some bs => some (BitVec.ofNat 8 (16 * h + l) :: bs)
    | _, _, _ => none

/-- A padding mode operand (R87). -/
def modeOperand (cs : List Char) : Option PadMode :=
  if isMnemonic cs "PKCS7".toList || cs == "0".toList then some .pkcs7
  else if isMnemonic cs "X923".toList || cs == "1".toList then some .x923
  else none

/-- A `<byte>` operand: a number or a quoted character (R87). -/
def byteOperand : AsmToken → Option Nat
  | .name cs => number cs
  | .quotedChar c => some c
  | _ => none

/-- A line from its tokens (R87, R88). DESIGN CHOICE (log entry 15): the value of `.word` is a number, hexadecimal or
decimal, and no quoted character. -/
def parseTokens : List AsmToken → Option AsmLine
  | [] => some .blank
  | [.name m] =>
    if isMnemonic m "NOP".toList then some .nop
    else if isMnemonic m "KEY_CLR".toList then some .keyClr
    else if isMnemonic m "MSG_END".toList then some .msgEnd
    else if isMnemonic m "ERR_CLR".toList then some .errClr
    else if isMnemonic m "KEY_LOAD".toList then some (.keyLoad [])
    else if isMnemonic m "MSG_HEX".toList then some (.msgHex [])
    else none
  | [.name m, .text cs] => if isMnemonic m "MSG_TEXT".toList then some (.msgText cs) else none
  | [.name m, a] =>
    if isMnemonic m "KEY_WR".toList then (byteOperand a).map .keyWr
    else if isMnemonic m "MSG_WR".toList then (byteOperand a).map .msgWr
    else
      match a with
      | .name cs =>
        if isMnemonic m "START".toList then (modeOperand cs).map .start
        else if isMnemonic m ".word".toList then (number cs).map .word
        else if isMnemonic m "KEY_LOAD".toList then (hexBytes cs).map .keyLoad
        else if isMnemonic m "MSG_HEX".toList then (hexBytes cs).map .msgHex
        else none
      | _ => none
  | [.name m, .name mode, .comma, .text cs] =>
    if isMnemonic m "ENCRYPT".toList then (modeOperand mode).map fun p => .encrypt p cs else none
  | [.name m, .name mode, .comma, .name hex] =>
    if isMnemonic m "ENCRYPT_HEX".toList then
      (modeOperand mode).bind fun p => (hexBytes hex).map fun bs => .encryptHex p bs
    else none
  | [.name m, .name mode, .comma] =>
    if isMnemonic m "ENCRYPT_HEX".toList then (modeOperand mode).map fun p => .encryptHex p [] else none
  | _ => none

/-- The words of one line of assembler text, or its refusal (R87). -/
def assembleText (line : String) : Option (List CmdWord) :=
  (lex none [] line.toList).bind fun ts => (parseTokens ts).bind AsmLine.assemble

/-- The words of a program, one line after another. -/
def assembleProgram (lines : List String) : Option (List CmdWord) :=
  (lines.mapM assembleText).map List.flatten

end Sys2Proof.Machine
end

