-- ==== Sys2Proof/Safety.lean ====
section
/-! DEFINITION. What counts as a safe run, in the terms claims use: the invariants of the spec (10_state.md R50, R51,
42_key_schedule.md R147) and the output stream (20_memory.md R72). -/

namespace Sys2Proof.Machine

/-- The states of a block in progress, `RINIT` through `EMIT`. -/
def Fsm.inBlock : Fsm → Bool
  | .rinit | .rsub | .rshift | .rmix | .radd | .emit => true
  | .idle | .echo | .kexp | .accept => false

/-- The states in which the whole key schedule is in place (R50). -/
def Fsm.scheduleReady : Fsm → Bool
  | .accept | .rinit | .rsub | .rshift | .rmix | .radd | .emit => true
  | .idle | .echo | .kexp => false

/-- The reachable-state invariant: R50 clause by clause, with the bounds of R6 and R43 and the facts of R32, R39, R42
and R105 it rests on. The ranges of the counters (R38) are their types. -/
structure State.Inv (s : State) : Prop where
  /-- `OUT_DEPTH` is at least 1 (R6). -/
  depth_pos : 1 ≤ s.outDepth
  /-- `outq` holds at most `OUT_DEPTH` entries (R43). -/
  outq_bound : s.outq.length ≤ s.outDepth
  /-- `key[0..key_len-1]` are written; all of `key` when `key_len` is 17 (R50). -/
  key_written : ∀ j : Fin 16, j.val < s.keyLen.val → s.keyWr[j] = true
  /-- Outside `IDLE`, `key_len` is 16 (R50). -/
  key_complete : s.fsm ≠ .idle → s.keyLen = 16
  /-- From START on, `w[0..3]` are written (R105). -/
  head_written : s.fsm ≠ .idle → ∀ i : Fin 44, i.val < 4 → s.wWr[i] = true
  /-- In `KEXP`, `kx_i` is 4..43 (R33). -/
  kexp_range : s.fsm = .kexp → 4 ≤ s.kxI.val
  /-- In `KEXP`, `w[0..kx_i-1]` are written (R50). -/
  kexp_written : s.fsm = .kexp → ∀ i : Fin 44, i.val < s.kxI.val → s.wWr[i] = true
  /-- From `ACCEPT` through `EMIT`, all of `w` is written (R50). -/
  schedule_written : s.fsm.scheduleReady = true → ∀ i : Fin 44, s.wWr[i] = true
  /-- In `ACCEPT`, `msg_cnt` is at most 15 (R50). -/
  accept_count : s.fsm = .accept → s.msgCnt.val ≤ 15
  /-- In `ACCEPT`, `st[0..msg_cnt-1]` are written (R50). -/
  accept_written : s.fsm = .accept → ∀ j : Fin 16, j.val < s.msgCnt.val → s.stWr[j] = true
  /-- In `RINIT` through `EMIT`, `msg_cnt` is 16 (R50). -/
  block_count : s.fsm.inBlock = true → s.msgCnt = 16
  /-- In `RINIT` through `EMIT`, all of `st` is written (R50). -/
  block_written : s.fsm.inBlock = true → ∀ j : Fin 16, s.stWr[j] = true
  /-- In the round states, `round` is at least 1 (R50). -/
  round_pos : s.fsm = .rsub ∨ s.fsm = .rshift ∨ s.fsm = .rmix ∨ s.fsm = .radd → 1 ≤ s.round.val
  /-- `RMIX` is entered only with `round` at most 9 (R50). -/
  rmix_round : s.fsm = .rmix → s.round.val ≤ 9
  /-- `EMIT` is entered only after round 10 (R186). -/
  emit_round : s.fsm = .emit → s.round = 10
  /-- Before `ACCEPT` the block is empty (R32, R146). -/
  early_count : s.fsm = .idle ∨ s.fsm = .echo ∨ s.fsm = .kexp → s.msgCnt = 0
  /-- `done` is 1 only between calls (R39). -/
  done_idle : s.done = true → s.fsm = .idle
  /-- `err_word` is 0 while `err_cmd` is 0 (R42). -/
  errWord_clear : s.errCmd = false → s.errWord = 0x0000#16

/-- How many words of `w` hold the schedule of the key buffer so far, with `k` the index `kx_i` (R105, R146, R147). -/
def Fsm.wordsDone : Fsm → Nat → Nat
  | .idle, _ => 0
  | .echo, _ => 4
  | .kexp, k => k
  | .accept, _ | .rinit, _ | .rsub, _ | .rshift, _ | .rmix, _ | .radd, _ | .emit, _ => 44

/-- During a call, the words of `w` computed so far are those of `expand(key)` (R147). -/
def State.ScheduleCorrect (s : State) : Prop :=
  ∀ i : Fin 44, i.val < s.fsm.wordsDone s.kxI.val → s.w[i] = (expand s.key).getD i.val 0

/-- No entry that the next engine step reads counts as unwritten (R51): the fault of R51 does not arise. -/
def State.ReadsWritten (s : State) : Prop :=
  match s.fetch with
  | .run (.start _) => s.keyLen = 16 → ∀ j : Fin 16, s.keyWr[j] = true
  | .run .echo => ∀ j : Fin 16, j.val = s.idx.val / 2 → s.keyWr[j] = true
  | .run .kexp => ∀ i : Fin 44, i.val + 1 = s.kxI.val ∨ i.val + 4 = s.kxI.val → s.wWr[i] = true
  | .run .rinit => (∀ j : Fin 16, s.stWr[j] = true) ∧ ∀ i : Fin 44, i.val < 4 → s.wWr[i] = true
  | .run .rsub | .run .rshift | .run .rmix => ∀ j : Fin 16, s.stWr[j] = true
  | .run .radd =>
    (∀ j : Fin 16, s.stWr[j] = true) ∧
      ∀ i : Fin 44, 4 * s.round.val ≤ i.val → i.val < 4 * s.round.val + 4 → s.wWr[i] = true
  | .run .emit => ∀ j : Fin 16, j.val = s.idx.val / 2 → s.stWr[j] = true
  | .run .nop | .run .keyClr | .run (.keyWr _) | .run (.msgWr _) | .run .msgEnd | .run .errClr => True
  | .wait | .illegal _ => True

/-- Everything the engine has put out: what the host has received, then what is still in `outq` (R72). -/
def State.stream (s : State) : List OutEntry :=
  s.received ++ s.outq

/-- The host drives no reset in the cycles it has planned. -/
def State.noReset (s : State) : Prop :=
  ∀ c ∈ s.host, c.rst = false

/-- Two states of one engine that may differ in the FIFO, its depth and the host (R207). -/
def State.SameEngine (s t : State) : Prop :=
  s.st = t.st ∧ s.key = t.key ∧ s.w = t.w ∧ s.fsm = t.fsm ∧ s.keyLen = t.keyLen ∧ s.msgCnt = t.msgCnt ∧
    s.kxI = t.kxI ∧ s.round = t.round ∧ s.idx = t.idx ∧ s.last = t.last ∧ s.padMode = t.padMode ∧
    s.done = t.done ∧ s.errKeyLen = t.errKeyLen ∧ s.errCmd = t.errCmd ∧ s.errWord = t.errWord ∧
    s.stWr = t.stWr ∧ s.keyWr = t.keyWr ∧ s.wWr = t.wWr

/-- `n` steps, stopping at the first fault or refusal. -/
def runSteps (n : Nat) (s : State) : Host.Outcome State Fault Refusal :=
  match n with
  | 0 => .next s
  | k + 1 =>
    match step s with
    | .next t => runSteps k t
    | .fault r => .fault r
    | .refused r => .refused r

end Sys2Proof.Machine
end

