-- ==== Sys2Proof/Certificates/Slice0/Obligations.lean ====
section
/-! DEFINITION. The statements for the provers, from the numbered rules of the spec. -/

open Sys2Proof Sys2Proof.Machine

/-! ### Encoding -/

/-- Every instruction, with every operand, is read back from its encoding (R83, R84, R86). -/
def Obligations.DecodeEncodeRoundTrip : Prop :=
  ∀ i : Instr, i.wellFormed = true → decode (encode i) = .ok i

/-- What decodes is the encoding of what it decodes to: no bit of a word or code is ignored (R83, R85, R86). -/
def Obligations.EncodeDecodeRoundTrip : Prop :=
  ∀ (e : Encoded) (i : Instr), decode e = .ok i → encode i = e

/-- The decoder is the one of R84, opcode by opcode. -/
def Obligations.DecoderFollowsItsCases : Prop :=
  ∀ w : CmdWord,
    (w.extractLsb' 12 4 = 0x0#4 →
      (decodeCmd w).toOption = if w.extractLsb' 0 12 = 0x000#12 then some .nop else none) ∧
    (w.extractLsb' 12 4 = 0x1#4 →
      (decodeCmd w).toOption = if w.extractLsb' 0 12 = 0x000#12 then some .keyClr else none) ∧
    (w.extractLsb' 12 4 = 0x2#4 →
      (decodeCmd w).toOption = if w.extractLsb' 8 4 = 0x0#4 then some (.keyWr (w.extractLsb' 0 8)) else none) ∧
    (w.extractLsb' 12 4 = 0x3#4 →
      (decodeCmd w).toOption =
        if w.extractLsb' 9 3 = 0#3 ∧ w.extractLsb' 0 8 = 0x00#8 then
          some (.start (if w.getLsbD 8 then .x923 else .pkcs7))
        else none) ∧
    (w.extractLsb' 12 4 = 0x4#4 →
      (decodeCmd w).toOption = if w.extractLsb' 8 4 = 0x0#4 then some (.msgWr (w.extractLsb' 0 8)) else none) ∧
    (w.extractLsb' 12 4 = 0x5#4 →
      (decodeCmd w).toOption = if w.extractLsb' 0 12 = 0x000#12 then some .msgEnd else none) ∧
    (w.extractLsb' 12 4 = 0x6#4 →
      (decodeCmd w).toOption = if w.extractLsb' 0 12 = 0x000#12 then some .errClr else none) ∧
    (7 ≤ (w.extractLsb' 12 4).toNat → (decodeCmd w).toOption = none)

/-- A word is legal exactly when it lies in a row of the opcode map, the rows do not overlap, and exactly 518 words
are legal (R83). -/
def Obligations.OpcodeRowsCoverLegalWordsOnce : Prop :=
  (∀ w : CmdWord, (decodeCmd w).toOption.isSome = true ↔ ∃ r ∈ opcodeMap, r.covers w = true) ∧
    (∀ w : CmdWord, ∀ r ∈ opcodeMap, ∀ r' ∈ opcodeMap, r.covers w = true → r'.covers w = true → r = r') ∧
    ∃ ws : List CmdWord, ws.length = 518 ∧ ws.Nodup ∧
      ∀ w : CmdWord, (decodeCmd w).toOption.isSome = true ↔ w ∈ ws

/-- The examples of R89 and T1: words written out from the spec decode to what they stand for. -/
def Obligations.WrittenWordsDecode : Prop :=
  decode (.cmd 0x0000#16) = .ok .nop ∧ decode (.cmd 0x1000#16) = .ok .keyClr ∧
    decode (.cmd 0x202b#16) = .ok (.keyWr 0x2b#8) ∧ decode (.cmd 0x3000#16) = .ok (.start .pkcs7) ∧
    decode (.cmd 0x3100#16) = .ok (.start .x923) ∧ decode (.cmd 0x4061#16) = .ok (.msgWr 0x61#8) ∧
    decode (.cmd 0x5000#16) = .ok .msgEnd ∧ decode (.cmd 0x6000#16) = .ok .errClr ∧
    (decode (.cmd 0x3001#16)).toOption = none ∧ (decode (.cmd 0x7000#16)).toOption = none ∧
    (decode (.cmd 0x0800#16)).toOption = none ∧ decode (.fsm 0x1#4) = .ok .echo ∧
    decode (.fsm 0x8#4) = .ok .radd

/-- Which words are illegal, and that an accepted illegal word raises `ErrIllegalCmd` and does nothing else (R85). -/
def Obligations.IllegalWordOnlyRaisesError : Prop :=
  (∀ w : CmdWord, (decodeCmd w).toOption = none ↔
    7 ≤ (w.extractLsb' 12 4).toNat ∨ w.extractLsb' 9 3 ≠ 0#3 ∨
      (w.extractLsb' 12 4 ≠ 0x3#4 ∧ w.getLsbD 8 = true) ∨
      (w.extractLsb' 12 4 ≠ 0x2#4 ∧ w.extractLsb' 12 4 ≠ 0x4#4 ∧ w.extractLsb' 0 8 ≠ 0x00#8)) ∧
    ∀ (s : State) (w : CmdWord), s.ports.rst = false → s.fsm = .idle ∨ s.fsm = .accept →
      s.ports.cmd = some w → s.pops = false → (decodeCmd w).toOption = none →
      step s = .next { s with
        errWord := if s.errCmd then s.errWord else w
        errCmd := true
        host := s.host.tail }

/-- Assembler lines are words of commands: what a line's commands assemble to decodes back to them, every line of R87
gives its word and every pseudo-instruction of R88 expands as it says, `.word` is taken as is, and bytes and code
points above 255 and words above 65535 are refused. -/
def Obligations.AssembledLinesAreEncodedCommands : Prop :=
  (∀ (l : AsmLine) (is : List Instr), l.commands = some is →
    wellFormedProgram is = true ∧ l.assemble = some (is.map fun i => (encode i).bits) ∧
      ∀ i ∈ is, decodeCmd (encode i).bits = .ok i) ∧
  (∀ bs : List Byte,
    (AsmLine.keyLoad bs).assemble = some (0x1000#16 :: bs.map fun b => 0x2000#16 ||| b.setWidth 16) ∧
    (AsmLine.msgHex bs).assemble = some (bs.map fun b => 0x4000#16 ||| b.setWidth 16)) ∧
  (AsmLine.blank.assemble = some [] ∧ AsmLine.nop.assemble = some [0x0000#16] ∧
    AsmLine.keyClr.assemble = some [0x1000#16] ∧ (AsmLine.start .pkcs7).assemble = some [0x3000#16] ∧
    (AsmLine.start .x923).assemble = some [0x3100#16] ∧ AsmLine.msgEnd.assemble = some [0x5000#16] ∧
    AsmLine.errClr.assemble = some [0x6000#16]) ∧
  (∀ n : Nat, n ≤ 255 → (AsmLine.keyWr n).assemble = some [0x2000#16 ||| BitVec.ofNat 16 n] ∧
    (AsmLine.msgWr n).assemble = some [0x4000#16 ||| BitVec.ofNat 16 n]) ∧
  (∀ (m : PadMode) (cs : List Nat), (∀ c ∈ cs, c ≤ 255) →
    (AsmLine.msgText cs).assemble = some (cs.map fun c => 0x4000#16 ||| BitVec.ofNat 16 c) ∧
    (AsmLine.encrypt m cs).assemble = some
      ((if m = .pkcs7 then 0x3000#16 else 0x3100#16) :: (cs.map fun c => 0x4000#16 ||| BitVec.ofNat 16 c) ++
        [0x5000#16])) ∧
  (∀ (m : PadMode) (bs : List Byte), (AsmLine.encryptHex m bs).assemble = some
    ((if m = .pkcs7 then 0x3000#16 else 0x3100#16) :: (bs.map fun b => 0x4000#16 ||| b.setWidth 16) ++
      [0x5000#16])) ∧
  (∀ (m : PadMode) (cs : List Nat), (∃ c ∈ cs, 255 < c) →
    (AsmLine.encrypt m cs).assemble = none ∧ (AsmLine.msgText cs).assemble = none) ∧
  (∀ n : Nat, 255 < n → (AsmLine.keyWr n).assemble = none ∧ (AsmLine.msgWr n).assemble = none) ∧
  ∀ v : Nat, (v < 65536 → (AsmLine.word v).assemble = some [BitVec.ofNat 16 v]) ∧
    (65536 ≤ v → (AsmLine.word v).assemble = none)

/-! ### A step runs the decoded instruction -/

/-- In a cycle without reset, the accepted word's instruction, or the micro-operation the controller code selects, is
run by `exec`; an accepted word that decodes to none raises `ErrIllegalCmd` and does nothing else; with no valid command
a quiescent engine waits. Around it stand the host's pop and its next inputs, and nothing else (R85, R86, R100, R180,
R206, R264). -/
def Obligations.StepRunsDecodedInstruction : Prop :=
  (∀ (s : State) (w : CmdWord) (i : Instr), s.ports.rst = false → s.fsm = .idle ∨ s.fsm = .accept →
    s.ports.cmd = some w → decodeCmd w = .ok i → step s = onNext s.endCycle (exec i s)) ∧
  (∀ (s : State) (i : Instr), s.ports.rst = false → decodeMicro s.fsm.code = .ok i →
    step s = onNext s.endCycle (exec i s)) ∧
  (∀ (s : State) (w : CmdWord), s.ports.rst = false → s.fsm = .idle ∨ s.fsm = .accept →
    s.ports.cmd = some w → (decodeCmd w).toOption = none →
    step s = .next (s.endCycle { s with errWord := if s.errCmd then s.errWord else w, errCmd := true })) ∧
  (∀ s : State, s.ports.rst = false → s.fsm = .idle ∨ s.fsm = .accept → s.ports.cmd = none →
    step s = .next (s.endCycle s)) ∧
  (∀ s t : State, s.outq ≠ [] → s.ports.rst = false → s.ports.outReady = true →
    s.endCycle t =
      { t with outq := t.outq.tail, received := t.received ++ t.outq.head?.toList, host := s.hostAfter }) ∧
  (∀ s t : State, s.outq = [] ∨ s.ports.outReady = false → s.endCycle t = { t with host := s.hostAfter })

/-- An instruction placed by `withFetchWord` is what the next step fetches (model's own convention, log entry 13). -/
def Obligations.PlacedInstructionIsFetched : Prop :=
  ∀ (s : State) (i : Instr),
    (∀ w, encode i = .cmd w →
      (s.withFetchWord 16 w.toNat).fetch = .run i ∧ (s.withFetchWord 16 w.toNat).ports.rst = false ∧
        decodeTableWord 16 w.toNat = some i) ∧
    (∀ c, encode i = .fsm c →
      (s.withFetchWord 8 c.toNat).fetch = .run i ∧ (s.withFetchWord 8 c.toNat).ports.rst = false ∧
        decodeTableWord 8 c.toNat = some i)

/-! ### Host commands -/

/-- The table of R100: a command not legal in its quiescent state raises `ErrIllegalCmd` with its own word and does
nothing else. -/
def Obligations.CommandLegalityTable : Prop :=
  ∀ (s : State) (i : Instr) (w : CmdWord), encode i = .cmd w →
    (s.fsm = .idle ∧ (i = .msgEnd ∨ ∃ d, i = .msgWr d)) ∨
      (s.fsm = .accept ∧ (i = .keyClr ∨ (∃ d, i = .keyWr d) ∨ ∃ m, i = .start m)) →
    exec i s = .next { s with errWord := if s.errCmd then s.errWord else w, errCmd := true }

/-- A command is accepted only when the engine is quiescent: a step of a busy engine does not consume a word the host
holds and records no error for it (R30, R260, R263). The first clause, that `exec` of a command in a busy engine leaves
the state as it is, is the model's choice (log entry 7, DEDUCED): no step makes that call. -/
def Obligations.BusyEngineLeavesCommandPending : Prop :=
  (∀ (s : State) (i : Instr) (w : CmdWord), encode i = .cmd w → s.fsm ≠ .idle → s.fsm ≠ .accept →
    exec i s = .next s) ∧
  ∀ (s t : State) (w : CmdWord), s.fsm ≠ .idle → s.fsm ≠ .accept → s.ports.rst = false →
    s.ports.cmd = some w → s.ports.hold = true → step s = .next t →
    t.ports = s.ports ∧ t.errCmd = s.errCmd ∧ t.errWord = s.errWord

/-- NOP (R101), with the words of its opcode that are illegal: those with a reserved bit set. -/
def Obligations.NopHasNoEffect : Prop :=
  encode .nop = .cmd 0x0000#16 ∧
    (∀ w : CmdWord, w.extractLsb' 12 4 = 0x0#4 →
      ((decodeCmd w).toOption = none ↔ w.extractLsb' 0 12 ≠ 0x000#12)) ∧
    ∀ s : State, s.fsm = .idle ∨ s.fsm = .accept → exec .nop s = .next s

/-- KEY_CLR (R102). -/
def Obligations.KeyClrForgetsKeyLength : Prop :=
  encode .keyClr = .cmd 0x1000#16 ∧
  (∀ s : State, s.fsm = .idle → ∃ t, exec .keyClr s = .next t ∧
    t = { s with keyLen := 0, keyWr := t.keyWr } ∧ ∀ j : Fin 16, t.keyWr[j] = false) ∧
  ∀ s : State, s.fsm = .accept → exec .keyClr s = .next
    { s with errWord := if s.errCmd then s.errWord else 0x1000#16, errCmd := true }

/-- KEY_WR (R103). -/
def Obligations.KeyWrAppendsKeyByte : Prop :=
  (∀ d : Byte, encode (.keyWr d) = .cmd (0x2000#16 ||| d.setWidth 16)) ∧
  (∀ (s : State) (d : Byte), s.fsm = .idle → ∀ h : s.keyLen.val < 16, exec (.keyWr d) s = .next
    { s with
      key := s.key.set s.keyLen.val d
      keyWr := s.keyWr.set s.keyLen.val true
      keyLen := ⟨s.keyLen.val + 1, by omega⟩ }) ∧
  (∀ (s : State) (d : Byte), s.fsm = .idle → 16 ≤ s.keyLen.val →
    exec (.keyWr d) s = .next { s with keyLen := 17 }) ∧
  ∀ (s : State) (d : Byte), s.fsm = .accept → exec (.keyWr d) s = .next
    { s with errWord := if s.errCmd then s.errWord else 0x2000#16 ||| d.setWidth 16, errCmd := true }

/-- START with a key of the wrong length: `ErrKeyLength` and nothing else (R104, R222). -/
def Obligations.StartRefusesWrongKeyLength : Prop :=
  (∀ m : PadMode, encode (.start m) = .cmd (if m = .pkcs7 then 0x3000#16 else 0x3100#16)) ∧
  ∀ (s : State) (m : PadMode), s.fsm = .idle → s.keyLen ≠ 16 →
    exec (.start m) s = .next { s with errKeyLen := true }

/-- START with a 16-byte key begins an encryption call (R105). -/
def Obligations.StartBeginsCall : Prop :=
  encode (.start .pkcs7) = .cmd 0x3000#16 ∧ encode (.start .x923) = .cmd 0x3100#16 ∧
  (∀ (s : State) (m : PadMode), s.fsm = .idle → s.keyLen = 16 → ∃ t, exec (.start m) s = .next t ∧
    t = { s with
      w := t.w, wWr := t.wWr, padMode := m, done := false, msgCnt := 0, idx := 0, fsm := .echo } ∧
    (∀ c : Fin 4, t.w[c.val] =
      (s.key[4 * c.val] ++ s.key[4 * c.val + 1] ++ s.key[4 * c.val + 2] ++ s.key[4 * c.val + 3] : BitVec 32)) ∧
    (∀ i : Fin 44, 4 ≤ i.val → t.w[i] = s.w[i]) ∧
    ∀ i : Fin 44, t.wWr[i] = if i.val < 4 then true else s.wWr[i]) ∧
  ∀ (s : State) (m : PadMode), s.fsm = .accept → exec (.start m) s = .next
    { s with
      errWord := if s.errCmd then s.errWord else (if m = .pkcs7 then 0x3000#16 else 0x3100#16)
      errCmd := true }

/-- MSG_WR (R108). -/
def Obligations.MsgWrAppendsMessageByte : Prop :=
  (∀ d : Byte, encode (.msgWr d) = .cmd (0x4000#16 ||| d.setWidth 16)) ∧
  (∀ (s : State) (d : Byte), s.fsm = .accept → ∀ h : s.msgCnt.val < 15, exec (.msgWr d) s = .next
    { s with
      st := s.st.set s.msgCnt.val d
      stWr := s.stWr.set s.msgCnt.val true
      msgCnt := ⟨s.msgCnt.val + 1, by omega⟩ }) ∧
  (∀ (s : State) (d : Byte), s.fsm = .accept → s.msgCnt = 15 → exec (.msgWr d) s = .next
    { s with
      st := s.st.set 15 d, stWr := s.stWr.set 15 true, msgCnt := 16, last := false, round := 0, fsm := .rinit }) ∧
  ∀ (s : State) (d : Byte), s.fsm = .idle → exec (.msgWr d) s = .next
    { s with errWord := if s.errCmd then s.errWord else 0x4000#16 ||| d.setWidth 16, errCmd := true }

/-- MSG_END under PKCS#7 (R109). -/
def Obligations.MsgEndPadsPkcs7 : Prop :=
  encode .msgEnd = .cmd 0x5000#16 ∧
  (∀ s : State, s.fsm = .accept → s.padMode = .pkcs7 → ∃ t, exec .msgEnd s = .next t ∧
    t = { s with
      st := t.st, stWr := t.stWr, msgCnt := 16, last := true, round := 0, fsm := .rinit } ∧
    (∀ j : Fin 16, j.val < s.msgCnt.val → t.st[j] = s.st[j] ∧ t.stWr[j] = s.stWr[j]) ∧
    ∀ j : Fin 16, s.msgCnt.val ≤ j.val →
      t.st[j] = BitVec.ofNat 8 (16 - s.msgCnt.val) ∧ t.stWr[j] = true) ∧
  ∀ s : State, s.fsm = .idle → exec .msgEnd s = .next
    { s with errWord := if s.errCmd then s.errWord else 0x5000#16, errCmd := true }

/-- MSG_END under ANSI X.923 (R110). -/
def Obligations.MsgEndPadsX923 : Prop :=
  encode .msgEnd = .cmd 0x5000#16 ∧
  (∀ s : State, s.fsm = .accept → s.padMode = .x923 → s.msgCnt = 0 →
    exec .msgEnd s = .next { s with done := true, fsm := .idle }) ∧
  (∀ s : State, s.fsm = .accept → s.padMode = .x923 → s.msgCnt ≠ 0 → ∃ t, exec .msgEnd s = .next t ∧
    t = { s with
      st := t.st, stWr := t.stWr, msgCnt := 16, last := true, round := 0, fsm := .rinit } ∧
    (∀ j : Fin 16, j.val < s.msgCnt.val → j.val < 15 → t.st[j] = s.st[j] ∧ t.stWr[j] = s.stWr[j]) ∧
    (∀ j : Fin 16, s.msgCnt.val ≤ j.val → j.val < 15 → t.st[j] = 0x00#8 ∧ t.stWr[j] = true) ∧
    t.st[15] = BitVec.ofNat 8 (16 - s.msgCnt.val) ∧ t.stWr[15] = true) ∧
  ∀ s : State, s.fsm = .idle → exec .msgEnd s = .next
    { s with errWord := if s.errCmd then s.errWord else 0x5000#16, errCmd := true }

/-- ERR_CLR (R112). -/
def Obligations.ErrClrClearsErrors : Prop :=
  encode .errClr = .cmd 0x6000#16 ∧
  ∀ s : State, s.fsm = .idle ∨ s.fsm = .accept →
    exec .errClr s = .next { s with errKeyLen := false, errCmd := false, errWord := 0x0000#16 }

/-- A command changes only the state its rule names (R111): the frame of the seven commands, field by field. A command
turned away as illegal may still set `err_cmd` and `err_word` (R225). -/
def Obligations.CommandFrame : Prop :=
  ∀ (s t : State) (i : Instr) (w : CmdWord), encode i = .cmd w → exec i s = .next t →
    t.outq = s.outq ∧ t.kxI = s.kxI ∧ t.outDepth = s.outDepth ∧ t.host = s.host ∧ t.received = s.received ∧
    t.freeCtr = s.freeCtr ∧
    ((¬ ∃ d, i = .msgWr d) → i ≠ .msgEnd →
      t.st = s.st ∧ t.stWr = s.stWr ∧ t.last = s.last ∧ t.round = s.round) ∧
    (∀ d, i = .msgWr d → ∀ j : Fin 16, j.val ≠ s.msgCnt.val → t.st[j] = s.st[j] ∧ t.stWr[j] = s.stWr[j]) ∧
    ((¬ ∃ d, i = .keyWr d) → t.key = s.key) ∧
    ((¬ ∃ d, i = .keyWr d) → i ≠ .keyClr → t.keyLen = s.keyLen ∧ t.keyWr = s.keyWr) ∧
    (∀ d, i = .keyWr d → ∀ j : Fin 16, j.val ≠ s.keyLen.val → t.key[j] = s.key[j] ∧ t.keyWr[j] = s.keyWr[j]) ∧
    ((¬ ∃ m, i = .start m) →
      t.w = s.w ∧ t.wWr = s.wWr ∧ t.padMode = s.padMode ∧ t.idx = s.idx) ∧
    (∀ k : Fin 44, 4 ≤ k.val → t.w[k] = s.w[k] ∧ t.wWr[k] = s.wWr[k]) ∧
    ((¬ ∃ m, i = .start m) → (¬ ∃ d, i = .msgWr d) → i ≠ .msgEnd → t.msgCnt = s.msgCnt ∧ t.fsm = s.fsm) ∧
    ((¬ ∃ m, i = .start m) → i ≠ .msgEnd → t.done = s.done) ∧
    ((¬ ∃ m, i = .start m) → i ≠ .errClr → t.errKeyLen = s.errKeyLen) ∧
    (i ≠ .errClr → t.errCmd ≠ s.errCmd ∨ t.errWord ≠ s.errWord →
      t = { s with errCmd := true, errWord := w })

/-! ### Micro-operations -/

/-- ECHO (R201). -/
def Obligations.EchoPushesKeyDigit : Prop :=
  ∀ s : State, s.fsm = .echo →
    (s.outDepth ≤ s.outq.length → exec .echo s = .next s) ∧
    (s.outq.length < s.outDepth → ∀ h : s.idx.val < 31, exec .echo s = .next
      { s with
        outq := s.outq ++ [{
          tag := .keyEcho
          char := hexDigit (if s.idx.val % 2 = 0 then s.key[s.idx.val / 2].extractLsb' 4 4
            else s.key[s.idx.val / 2].extractLsb' 0 4) }]
        idx := ⟨s.idx.val + 1, by omega⟩ }) ∧
    (s.outq.length < s.outDepth → s.idx = 31 → exec .echo s = .next
      { s with
        outq := s.outq ++ [{ tag := .keyEcho, char := hexDigit (s.key[15].extractLsb' 0 4) }]
        kxI := 4
        fsm := .kexp })

/-- KEXP (R146). -/
def Obligations.KexpComputesScheduleWord : Prop :=
  ∀ s : State, s.fsm = .kexp → ∀ h : 4 ≤ s.kxI.val,
    ∀ v : Word,
      v = (s.w[s.kxI.val - 4] ^^^
        if s.kxI.val % 4 = 0 then
          subWord (rotWord s.w[s.kxI.val - 1]) ^^^ ((rcon (s.kxI.val / 4)).setWidth 32 <<< 24)
        else s.w[s.kxI.val - 1]) →
      (∀ h' : s.kxI.val < 43, exec .kexp s = .next
        { s with
          w := s.w.set s.kxI.val v, wWr := s.wWr.set s.kxI.val true, kxI := ⟨s.kxI.val + 1, by omega⟩ }) ∧
      (s.kxI = 43 → exec .kexp s = .next
        { s with w := s.w.set 43 v, wWr := s.wWr.set 43 true, fsm := .accept })

/-- RINIT (R182). -/
def Obligations.RinitAddsRoundKeyZero : Prop :=
  ∀ s : State, s.fsm = .rinit →
    exec .rinit s = .next { s with st := addRoundKey s.st s.w 0, round := 1, fsm := .rsub }

/-- RSUB (R183). -/
def Obligations.RsubSubstitutesBytes : Prop :=
  ∀ s : State, s.fsm = .rsub → exec .rsub s = .next { s with st := subBytes s.st, fsm := .rshift }

/-- RSHIFT (R184). -/
def Obligations.RshiftShiftsRows : Prop :=
  ∀ s : State, s.fsm = .rshift →
    (s.round.val < 10 → exec .rshift s = .next { s with st := shiftRows s.st, fsm := .rmix }) ∧
    (s.round = 10 → exec .rshift s = .next { s with st := shiftRows s.st, fsm := .radd })

/-- RMIX (R185). -/
def Obligations.RmixMixesColumns : Prop :=
  ∀ s : State, s.fsm = .rmix → exec .rmix s = .next { s with st := mixColumns s.st, fsm := .radd }

/-- RADD (R186). -/
def Obligations.RaddAddsRoundKey : Prop :=
  ∀ s : State, s.fsm = .radd →
    (∀ h : s.round.val < 10, exec .radd s = .next
      { s with
        st := addRoundKey s.st s.w s.round, round := ⟨s.round.val + 1, by omega⟩, fsm := .rsub }) ∧
    (s.round = 10 → exec .radd s = .next
      { s with st := addRoundKey s.st s.w 10, idx := 0, fsm := .emit })

/-- EMIT (R203). -/
def Obligations.EmitPushesCiphertextDigit : Prop :=
  ∀ s : State, s.fsm = .emit →
    (s.outDepth ≤ s.outq.length → exec .emit s = .next s) ∧
    (s.outq.length < s.outDepth → ∀ h : s.idx.val < 31, exec .emit s = .next
      { s with
        outq := s.outq ++ [{
          tag := .ciphertext
          char := hexDigit (if s.idx.val % 2 = 0 then s.st[s.idx.val / 2].extractLsb' 4 4
            else s.st[s.idx.val / 2].extractLsb' 0 4) }]
        idx := ⟨s.idx.val + 1, by omega⟩ }) ∧
    (s.outq.length < s.outDepth → s.idx = 31 → s.last = true → exec .emit s = .next
      { s with
        outq := s.outq ++ [{ tag := .ciphertext, char := hexDigit (s.st[15].extractLsb' 0 4) }]
        msgCnt := 0, done := true, fsm := .idle }) ∧
    (s.outq.length < s.outDepth → s.idx = 31 → s.last = false → exec .emit s = .next
      { s with
        outq := s.outq ++ [{ tag := .ciphertext, char := hexDigit (s.st[15].extractLsb' 0 4) }]
        msgCnt := 0, fsm := .accept })

/-- The frame of the eight micro-operations: none touches the key, the padding mode, an error flag or the host's side
(R220); only KEXP writes `w`, and one word of it; only the round steps write `st`; only ECHO and EMIT push, only EMIT
writes `done` and `msg_cnt`. -/
def Obligations.MicroOperationFrame : Prop :=
  ∀ (s t : State) (i : Instr) (c : BitVec 4), encode i = .fsm c → exec i s = .next t →
    t.key = s.key ∧ t.keyWr = s.keyWr ∧ t.keyLen = s.keyLen ∧ t.last = s.last ∧ t.padMode = s.padMode ∧
    t.errKeyLen = s.errKeyLen ∧ t.errCmd = s.errCmd ∧ t.errWord = s.errWord ∧ t.outDepth = s.outDepth ∧
    t.stWr = s.stWr ∧ t.host = s.host ∧ t.received = s.received ∧ t.freeCtr = s.freeCtr ∧
    (i ≠ .kexp → t.w = s.w ∧ t.wWr = s.wWr) ∧
    (∀ k : Fin 44, k ≠ s.kxI → t.w[k] = s.w[k] ∧ t.wWr[k] = s.wWr[k]) ∧
    (i = .echo ∨ i = .kexp ∨ i = .emit → t.st = s.st) ∧
    (i ≠ .echo → i ≠ .emit → t.outq = s.outq) ∧
    (i ≠ .emit → t.done = s.done ∧ t.msgCnt = s.msgCnt) ∧
    (i ≠ .rinit → i ≠ .radd → t.round = s.round) ∧
    (i ≠ .echo → i ≠ .kexp → t.kxI = s.kxI) ∧
    (i ≠ .echo → i ≠ .radd → i ≠ .emit → t.idx = s.idx)

/-- The two forms whose index or count is out of range, in states no run reaches, run on with one open value each: what
`msg_cnt` holds when it counts past 16, and the word KEXP writes with `kx_i` below 4. That they run, and what else they
leave, is the model's choice (log entry 8); R61 defines no out-of-range access. -/
def Obligations.OutOfRangeIndexRunsOn : Prop :=
  (∀ (s : State) (d : Byte), s.fsm = .accept → s.msgCnt = 16 →
    ∃ c : Fin 17, exec (.msgWr d) s = .next
      (if c = 16 then { s with msgCnt := 16, last := false, round := 0, fsm := .rinit } else { s with msgCnt := c })) ∧
  ∀ s : State, s.fsm = .kexp → ∀ h : s.kxI.val < 4,
    ∃ v : Word, exec .kexp s = .next
      { s with
        w := s.w.set s.kxI.val v, wWr := s.wWr.set s.kxI.val true, kxI := ⟨s.kxI.val + 1, by omega⟩ }

/-! ### Tables and transforms -/

/-- The S-box ROM is a permutation, read at row `b[7:4]`, column `b[3:0]`, and its table is the affine map of the
multiplicative inverse in GF(2^8) (R25, R26). -/
def Obligations.SboxIsAffineInversePermutation : Prop :=
  (∀ b : Byte, sbox b = (sboxTable[(b.extractLsb' 4 4).toNat]'(b.extractLsb' 4 4).isLt)[(b.extractLsb' 0 4).toNat]'
    (b.extractLsb' 0 4).isLt) ∧
  (∀ a b : Byte, sbox a = sbox b → a = b) ∧ (∀ b : Byte, ∃ a : Byte, sbox a = b) ∧
    sbox 0x00#8 = sboxAffine 0x00#8 ∧
    ∀ a : Byte, a ≠ 0x00#8 → ∃ b : Byte, gfMul a b = 0x01#8 ∧ sbox a = sboxAffine b

/-- The round constants are the powers of `{02}`, as words in the high-order byte (R27, R143). -/
def Obligations.RconIsPowersOfTwo : Prop :=
  rcon 1 = 0x01#8 ∧ (∀ n : Nat, 1 ≤ n → n ≤ 9 → rcon (n + 1) = xtime (rcon n)) ∧
    (rcon 9 = 0x1b#8 ∧ rcon 10 = 0x36#8) ∧
    (∀ n : Nat, 1 ≤ n → n ≤ 10 → rconWord n = (rcon n ++ 0x000000#24 : BitVec 32)) ∧
    [1, 2, 3, 4, 5, 6, 7, 8, 9, 10].map rconWord =
      [0x01000000#32, 0x02000000#32, 0x04000000#32, 0x08000000#32, 0x10000000#32, 0x20000000#32, 0x40000000#32,
        0x80000000#32, 0x1b000000#32, 0x36000000#32]

/-- SubBytes lane by lane; ShiftRows as the rotation of rows and as the byte permutation; rotating the rows back
restores the State (R162, R163, R164, R165). -/
def Obligations.SubBytesAndShiftRowsByLane : Prop :=
  (∀ (s : Block) (j : Fin 16), (subBytes s)[j] = sbox s[j]) ∧
  (∀ (s : Block) (r c : Fin 4),
    (shiftRows s)[r.val + 4 * c.val] = s[r.val + 4 * ((c.val + r.val) % 4)]'(by omega)) ∧
  (∀ s : Block, shiftRows s =
    #v[s[0], s[5], s[10], s[15], s[4], s[9], s[14], s[3], s[8], s[13], s[2], s[7], s[12], s[1], s[6], s[11]]) ∧
  ∀ (s : Block) (r c : Fin 4),
    (shiftRows s)[r.val + 4 * ((c.val + (4 - r.val)) % 4)]'(by omega) = s[r.val + 4 * c.val]

/-- MixColumns is the 2/3/1/1 matrix over GF(2^8), column by column (R166, R167). -/
def Obligations.MixColumnsIsMatrixProduct : Prop :=
  ∀ (s : Block) (c : Fin 4), ∀ a0 a1 a2 a3 : Byte,
    a0 = s[4 * c.val] → a1 = s[4 * c.val + 1] → a2 = s[4 * c.val + 2] → a3 = s[4 * c.val + 3] →
    (mixColumns s)[4 * c.val] = gfMul a0 2#8 ^^^ gfMul a1 3#8 ^^^ a2 ^^^ a3 ∧
    (mixColumns s)[4 * c.val + 1] = a0 ^^^ gfMul a1 2#8 ^^^ gfMul a2 3#8 ^^^ a3 ∧
    (mixColumns s)[4 * c.val + 2] = a0 ^^^ a1 ^^^ gfMul a2 2#8 ^^^ gfMul a3 3#8 ∧
    (mixColumns s)[4 * c.val + 3] = gfMul a0 3#8 ^^^ a1 ^^^ a2 ^^^ gfMul a3 2#8

/-- MixColumns is linear (R168). -/
def Obligations.MixColumnsIsLinear : Prop :=
  ∀ a b : Block, mixColumns (Vector.ofFn fun j : Fin 16 => a[j] ^^^ b[j]) =
    Vector.ofFn fun j : Fin 16 => (mixColumns a)[j] ^^^ (mixColumns b)[j]

/-- AddRoundKey XORs each state column, taken as a word, with the round key's word; equivalently each byte with the
round key's byte (R24, R170). -/
def Obligations.AddRoundKeyXorsColumns : Prop :=
  ∀ (s : Block) (w : Schedule) (r : Fin 11) (c : Fin 4), ∀ t : Block, t = addRoundKey s w r →
    (t[4 * c.val] ++ t[4 * c.val + 1] ++ t[4 * c.val + 2] ++ t[4 * c.val + 3] : BitVec 32) =
      (s[4 * c.val] ++ s[4 * c.val + 1] ++ s[4 * c.val + 2] ++ s[4 * c.val + 3] : BitVec 32) ^^^
        w[4 * r.val + c.val]'(by omega) ∧
    ∀ j : Fin 16, t[j] = s[j] ^^^ (w[4 * r.val + j.val / 4]'(by omega)).extractLsb' (8 * (3 - j.val % 4)) 8

/-- The key schedule has 44 words and satisfies its recurrence (R144, R149). -/
def Obligations.KeyScheduleRecurrence : Prop :=
  ∀ key : Block, (expand key).length = 44 ∧
    (∀ c : Fin 4, (expand key)[c.val]? = some
      (key[4 * c.val] ++ key[4 * c.val + 1] ++ key[4 * c.val + 2] ++ key[4 * c.val + 3] : BitVec 32)) ∧
    ∀ i : Nat, 4 ≤ i → i ≤ 43 → ∃ prev back : Word,
      (expand key)[i - 1]? = some prev ∧ (expand key)[i - 4]? = some back ∧
      (expand key)[i]? = some (back ^^^
        if i % 4 = 0 then subWord (rotWord prev) ^^^ ((rcon (i / 4)).setWidth 32 <<< 24) else prev)

/-- RotWord and SubWord on a word's four bytes (R140, R142). -/
def Obligations.RotWordAndSubWordOnBytes : Prop :=
  ∀ b0 b1 b2 b3 : Byte,
    rotWord (b0 ++ b1 ++ b2 ++ b3 : BitVec 32) = (b1 ++ b2 ++ b3 ++ b0 : BitVec 32) ∧
    subWord (b0 ++ b1 ++ b2 ++ b3 : BitVec 32) = (sbox b0 ++ sbox b1 ++ sbox b2 ++ sbox b3 : BitVec 32)

/-! ### Padding -/

/-- The padded length and its last byte under both schemes, with the scopes of R137, and the number of blocks
(R136). -/
def Obligations.PaddedLengthAndLastByte : Prop :=
  ∀ m : List Byte,
    ((padPkcs7 m).length = 16 * (m.length / 16 + 1) ∧
      (padPkcs7 m).getLast? = some (BitVec.ofNat 8 (16 - m.length % 16)) ∧ m <+: padPkcs7 m) ∧
    ((padX923 m).length = 16 * ((m.length + 15) / 16) ∧ m <+: padX923 m ∧
      (m.length % 16 = 0 → padX923 m = m) ∧
      (m.length % 16 ≠ 0 → (padX923 m).getLast? = some (BitVec.ofNat 8 (16 - m.length % 16)))) ∧
    (splitBlocks (pad .pkcs7 m)).length = m.length / 16 + 1 ∧
    (splitBlocks (pad .x923 m)).length = (m.length + 15) / 16

/-- The hardware padder works on the tail only, and gives exactly the last 16-byte chunk of the padded message; the
chunks before it are the message's own (R133). -/
def Obligations.TailPaddingMakesLastBlock : Prop :=
  ∀ (s : State) (m : List Byte), s.msgCnt.val = m.length % 16 →
    (∀ j : Fin 16, j.val < s.msgCnt.val → s.st[j] = m.getD (16 * (m.length / 16) + j.val) 0#8) →
    s.padTailPkcs7.st = blockAt (padPkcs7 m) (m.length / 16) ∧
    (m.length % 16 ≠ 0 → s.padTailX923.st = blockAt (padX923 m) (m.length / 16)) ∧
    ∀ k : Nat, k < m.length / 16 →
      blockAt (padPkcs7 m) k = blockAt m k ∧ blockAt (padX923 m) k = blockAt m k

/-! ### Controller -/

/-- The transition relation of `fsm`, row by row (R181): every step follows its row, and no other transition
exists. The clause for MSG_WR in `ACCEPT` with `msg_cnt` already 16, a state no run reaches and no row names, is the
model's choice (log entry 8). -/
def Obligations.ControllerTransitions : Prop :=
  ∀ s t : State, step s = .next t →
    (s.ports.rst = true → t.fsm = .idle) ∧
    (s.ports.rst = false →
      (s.fsm = .idle →
        ((∃ m, s.fetch = .run (.start m)) → t.fsm = if s.keyLen = 16 then .echo else .idle) ∧
        ((¬ ∃ m, s.fetch = .run (.start m)) → t.fsm = .idle)) ∧
      (s.fsm = .echo → t.fsm = if s.outq.length < s.outDepth ∧ s.idx = 31 then .kexp else .echo) ∧
      (s.fsm = .kexp → t.fsm = if s.kxI = 43 then .accept else .kexp) ∧
      (s.fsm = .accept →
        ((∃ d, s.fetch = .run (.msgWr d)) →
          (s.msgCnt.val + 1 < 16 → t.fsm = .accept) ∧ (s.msgCnt.val + 1 = 16 → t.fsm = .rinit) ∧
            (s.msgCnt = 16 → t.fsm = .accept ∨ t.fsm = .rinit)) ∧
        (s.fetch = .run .msgEnd →
          t.fsm = if s.padMode = .x923 ∧ s.msgCnt = 0 then .idle else .rinit) ∧
        ((¬ ∃ d, s.fetch = .run (.msgWr d)) → s.fetch ≠ .run .msgEnd → t.fsm = .accept)) ∧
      (s.fsm = .rinit → t.fsm = .rsub) ∧
      (s.fsm = .rsub → t.fsm = .rshift) ∧
      (s.fsm = .rshift → t.fsm = if s.round.val < 10 then .rmix else .radd) ∧
      (s.fsm = .rmix → t.fsm = .radd) ∧
      (s.fsm = .radd → t.fsm = if s.round.val < 10 then .rsub else .emit) ∧
      (s.fsm = .emit →
        t.fsm = if s.outq.length < s.outDepth ∧ s.idx = 31 then (if s.last then .idle else .accept) else .emit))

/-- From RINIT, 40 steps without reset compute the cipher function of the block in `st` and enter EMIT, whatever the
host pops meanwhile (R187, R188). -/
def Obligations.BlockRunComputesCipher : Prop :=
  ∀ s : State, s.fsm = .rinit → s.noReset →
    ∃ t, runSteps 40 s = .next t ∧ t.fsm = .emit ∧ t.st = cipher s.st s.w ∧ t.idx = 0 ∧ t.round = 10 ∧
      t.w = s.w ∧ t.key = s.key ∧ t.last = s.last ∧ t.stream = s.stream

/-- From EMIT with room for a block, 32 steps without reset put out its 32 hex digits under tag 0 and return to
`ACCEPT` or, after the last block, to `IDLE` with `done` (R203, R204). -/
def Obligations.EmitRunPutsOutBlock : Prop :=
  ∀ s : State, s.fsm = .emit → s.idx = 0 → s.noReset → s.outq.length + 32 ≤ s.outDepth →
    ∃ t, runSteps 32 s = .next t ∧ t.stream = s.stream ++ hexEntries .ciphertext s.st ∧ t.msgCnt = 0 ∧
      t.fsm = (if s.last then .idle else .accept) ∧ t.done = (s.done || s.last)

/-- From an accepted START with a 16-byte key and room for the echo, 73 steps reach `ACCEPT` with the key echoed in
hex and the whole schedule in place (R105, R147, R202, R270). -/
def Obligations.StartRunEchoesAndExpandsKey : Prop :=
  ∀ (s : State) (m : PadMode), s.fsm = .idle → s.keyLen = 16 → s.noReset → s.fetch = .run (.start m) →
    s.outq.length + 32 ≤ s.outDepth →
    ∃ t, runSteps 73 s = .next t ∧ t.fsm = .accept ∧ t.msgCnt = 0 ∧ t.padMode = m ∧ t.key = s.key ∧
      t.w = scheduleOfList (expand s.key) ∧ t.stream = s.stream ++ hexEntries .keyEcho s.key

/-- A whole encryption call (R106): a host that presents START, the message bytes and MSG_END, holds each word until
it is accepted and pops every entry, receives exactly the key echo and the ciphertext of the padded message, for every
key, message, padding mode and FIFO depth. That the host is a list in State, and what it has received another, is the
model's choice (log entries 1 and 11). -/
def Obligations.EncryptionCallOutput : Prop :=
  ∀ (s : State) (m : PadMode) (msg : List Byte), s.fsm = .idle → s.keyLen = 16 → 1 ≤ s.outDepth → s.outq = [] →
    s.host = (((Instr.start m :: msg.map Instr.msgWr) ++ [Instr.msgEnd]).map fun i => streamCycle (encode i).bits) ++
      List.replicate 200 popCycle →
    ∃ n t, runSteps n s = .next t ∧ t.fsm = .idle ∧ t.done = true ∧ t.outq = [] ∧ t.key = s.key ∧
      t.received = s.received ++ callOutput s.key m msg

/-! ### Output channel and status -/

/-- The formatter: exactly two lowercase hex digits a byte, high nibble first (R200). -/
def Obligations.HexDigitsAreLowercase : Prop :=
  (∀ n : BitVec 4, n.toNat ≤ 9 → (hexDigit n).toNat = 0x30 + n.toNat) ∧
  (∀ n : BitVec 4, 10 ≤ n.toNat → (hexDigit n).toNat = 0x61 + (n.toNat - 10)) ∧
  ∀ b : Byte, hexByte b = [hexDigit (b.extractLsb' 4 4), hexDigit (b.extractLsb' 0 4)]

/-- Without reset the output stream only grows, by at most one entry a step and only while the FIFO has room; so
entries leave in the order pushed and none is dropped or overwritten (R72, R205, R206). -/
def Obligations.OutputStreamOnlyGrows : Prop :=
  ∀ s t : State, s.ports.rst = false → step s = .next t →
    t.stream = s.stream ∨
      (s.outq.length < s.outDepth ∧ (s.fsm = .echo ∨ s.fsm = .emit) ∧ ∃ e, t.stream = s.stream ++ [e])

/-- A push and a pop in the same cycle both take effect, and full is judged before the pop (R264). -/
def Obligations.PushAndPopInOneCycle : Prop :=
  ∀ (s : State) (e : OutEntry) (q : List OutEntry), s.fsm = .echo ∨ s.fsm = .emit → s.ports.rst = false →
    s.ports.outReady = true → s.outq = e :: q →
    (s.outq.length < s.outDepth → ∃ t e', step s = .next t ∧ t.outq = q ++ [e'] ∧ t.received = s.received ++ [e]) ∧
    (s.outDepth ≤ s.outq.length → step s = .next
      { s with outq := q, received := s.received ++ [e], host := s.hostAfter })

/-- What the engine computes and puts out does not depend on the FIFO's depth or contents or on when the host pops:
engines alike take alike steps and push the same entries, with any FIFO in every state but `ECHO` and `EMIT` and with
room in those two; and a step held there changes neither engine nor stream (R207). -/
def Obligations.OutputIndependentOfDepthAndPops : Prop :=
  (∀ s s' t t' : State, s.SameEngine s' → s.ports.rst = false → s'.ports.rst = false →
    s.ports.cmd = s'.ports.cmd →
    (s.fsm = .echo ∨ s.fsm = .emit → s.outq.length < s.outDepth ∧ s'.outq.length < s'.outDepth) →
    step s = .next t → step s' = .next t' →
    t.SameEngine t' ∧ ∃ p, t.stream = s.stream ++ p ∧ t'.stream = s'.stream ++ p) ∧
  ∀ s t : State, s.fsm = .echo ∨ s.fsm = .emit → s.ports.rst = false → s.outDepth ≤ s.outq.length →
    step s = .next t → t.SameEngine s ∧ t.stream = s.stream

/-- The fields of STATUS (R44). -/
def Obligations.StatusFields : Prop :=
  ∀ s : State,
    (s.status.getLsbD 0 = true ↔ s.fsm ≠ .idle ∧ s.fsm ≠ .accept) ∧
    (s.status.getLsbD 1 = true ↔ s.fsm = .accept) ∧
    s.status.getLsbD 2 = s.done ∧ s.status.getLsbD 3 = s.errKeyLen ∧ s.status.getLsbD 4 = s.errCmd ∧
    (s.status.getLsbD 5 = true ↔ s.padMode = .x923) ∧
    (s.status.getLsbD 6 = true ↔ s.outq = []) ∧
    (s.status.getLsbD 7 = true ↔ s.outq.length = s.outDepth) ∧
    (s.status.extractLsb' 8 5).toNat = s.keyLen.val ∧ s.status.extractLsb' 13 3 = 0#3 ∧
    State.reset.status = 0x0040#16

/-- The handshake outputs, the output port and ERRINFO (R30, R45, R46); an invalid output port carries nothing. -/
def Obligations.HandshakeAndErrinfoOutputs : Prop :=
  ∀ s : State,
    (s.cmdReady = true ↔ s.ports.rst = false ∧ (s.fsm = .idle ∨ s.fsm = .accept)) ∧
    (s.outValid = true ↔ s.outq ≠ [] ∧ s.ports.rst = false) ∧
    (∀ e q, s.outq = e :: q → s.ports.rst = false → s.outPort = some e) ∧
    (s.outValid = false → s.outPort = none) ∧
    s.errInfo = s.errWord ∧ State.reset.errInfo = 0x0000#16

/-! ### Errors and flags -/

/-- The error flags are sticky and the first illegal word is kept: only ERR_CLR and reset clear them
(R40, R41, R42). -/
def Obligations.ErrorFlagsAreSticky : Prop :=
  ∀ s t : State, s.ports.rst = false → s.fetch ≠ .run .errClr → step s = .next t →
    (s.errKeyLen = true → t.errKeyLen = true) ∧
    (s.errCmd = true → t.errCmd = true ∧ t.errWord = s.errWord) ∧
    (s.errKeyLen = false → t.errKeyLen = true →
      ∃ m, s.fetch = .run (.start m) ∧ s.fsm = .idle ∧ s.keyLen ≠ 16) ∧
    (s.errCmd = false → t.errCmd = true →
      (s.fsm = .idle ∨ s.fsm = .accept) ∧ s.ports.cmd = some t.errWord)

/-- `done` is set only when a call finishes and cleared only by a START that passes the key check and by reset
(R39). -/
def Obligations.DoneMarksEndOfCall : Prop :=
  ∀ s t : State, step s = .next t →
    (s.done = false → t.done = true →
      t.fsm = .idle ∧ ((s.fsm = .emit ∧ s.idx = 31 ∧ s.last = true) ∨
        (s.fetch = .run .msgEnd ∧ s.fsm = .accept ∧ s.padMode = .x923 ∧ s.msgCnt = 0))) ∧
    (s.done = true → t.done = false →
      s.ports.rst = true ∨ ∃ m, s.fetch = .run (.start m) ∧ s.fsm = .idle ∧ s.keyLen = 16)

/-! ### Reset and invariants -/

/-- The state after reset, for the registers whose value the spec gives (R49). -/
def Obligations.ResetStateValues : Prop :=
  State.reset.fsm = .idle ∧ State.reset.keyLen = 0 ∧ State.reset.msgCnt = 0 ∧ State.reset.kxI = 0 ∧
    State.reset.round = 0 ∧ State.reset.idx = 0 ∧ State.reset.last = false ∧ State.reset.padMode = .pkcs7 ∧
    State.reset.done = false ∧ State.reset.errKeyLen = false ∧ State.reset.errCmd = false ∧
    State.reset.errWord = 0x0000#16 ∧ State.reset.outq = [] ∧
    (∀ j : Fin 16, State.reset.stWr[j] = false ∧ State.reset.keyWr[j] = false) ∧
    ∀ i : Fin 44, State.reset.wWr[i] = false

/-- A cycle with `rst` loads the reset values and does nothing else, whatever command, micro-step or pop was due
(R250, R251). The contents of `st`, `key` and `w` are left open. -/
def Obligations.ResetCycleLoadsResetValues : Prop :=
  ∀ s : State, s.ports.rst = true → s.cmdReady = false ∧ s.outValid = false ∧
    ∃ t, step s = .next t ∧
      t = { State.reset with
        st := t.st, key := t.key, w := t.w, outDepth := s.outDepth, received := s.received, host := t.host,
        freeCtr := t.freeCtr }

/-- The invariant of R50 holds in the state after reset. -/
def Obligations.InvariantHoldsAtReset : Prop :=
  State.reset.Inv

/-- Every step keeps the invariant of R50. -/
def Obligations.InvariantKeptByStep : Prop :=
  ∀ s t : State, s.Inv → step s = .next t → t.Inv

/-- Every step keeps the schedule of the call correct; so on entering `ACCEPT`, `w` is `expand(key)`, and it stays so
until the next START (R147). -/
def Obligations.ScheduleCorrectKeptByStep : Prop :=
  ∀ s t : State, s.Inv → s.ScheduleCorrect → step s = .next t → t.ScheduleCorrect

/-- No step stops with a fault or a refusal, from any state; and no step from a state of the invariant reads an entry
that counts as unwritten, so the model fault R51 allows does not arise (R51, R228, R230). Outside the invariant, where
R49 and R51 have a model fault on an unwritten read, that the step goes on is the model's choice (log entry 5), and so
it is with an index or a count out of range (log entry 8). -/
def Obligations.InvariantStatesNeverStop : Prop :=
  (∀ s : State, ∃ t, step s = .next t) ∧ ∀ s : State, s.Inv → s.ReadsWritten
end

