-- ==== Sys2Proof/Laws/State.lean ====
section
/-! SUPPORT. One lemma per field per update of State, each true by rfl, so that no later proof unfolds an update. The
name of a lemma is the update's, then the field's. -/

namespace Sys2Proof.Machine

variable (s : State)

@[simp] theorem State.writeSt_st (j : Fin 16) (b : Byte) : (s.writeSt j b).st = s.st.set j b := rfl
@[simp] theorem State.writeSt_key (j : Fin 16) (b : Byte) : (s.writeSt j b).key = s.key := rfl
@[simp] theorem State.writeSt_w (j : Fin 16) (b : Byte) : (s.writeSt j b).w = s.w := rfl
@[simp] theorem State.writeSt_fsm (j : Fin 16) (b : Byte) : (s.writeSt j b).fsm = s.fsm := rfl
@[simp] theorem State.writeSt_keyLen (j : Fin 16) (b : Byte) : (s.writeSt j b).keyLen = s.keyLen := rfl
@[simp] theorem State.writeSt_msgCnt (j : Fin 16) (b : Byte) : (s.writeSt j b).msgCnt = s.msgCnt := rfl
@[simp] theorem State.writeSt_kxI (j : Fin 16) (b : Byte) : (s.writeSt j b).kxI = s.kxI := rfl
@[simp] theorem State.writeSt_round (j : Fin 16) (b : Byte) : (s.writeSt j b).round = s.round := rfl
@[simp] theorem State.writeSt_idx (j : Fin 16) (b : Byte) : (s.writeSt j b).idx = s.idx := rfl
@[simp] theorem State.writeSt_last (j : Fin 16) (b : Byte) : (s.writeSt j b).last = s.last := rfl
@[simp] theorem State.writeSt_padMode (j : Fin 16) (b : Byte) : (s.writeSt j b).padMode = s.padMode := rfl
@[simp] theorem State.writeSt_done (j : Fin 16) (b : Byte) : (s.writeSt j b).done = s.done := rfl
@[simp] theorem State.writeSt_errKeyLen (j : Fin 16) (b : Byte) : (s.writeSt j b).errKeyLen = s.errKeyLen := rfl
@[simp] theorem State.writeSt_errCmd (j : Fin 16) (b : Byte) : (s.writeSt j b).errCmd = s.errCmd := rfl
@[simp] theorem State.writeSt_errWord (j : Fin 16) (b : Byte) : (s.writeSt j b).errWord = s.errWord := rfl
@[simp] theorem State.writeSt_outq (j : Fin 16) (b : Byte) : (s.writeSt j b).outq = s.outq := rfl
@[simp] theorem State.writeSt_outDepth (j : Fin 16) (b : Byte) : (s.writeSt j b).outDepth = s.outDepth := rfl
@[simp] theorem State.writeSt_stWr (j : Fin 16) (b : Byte) : (s.writeSt j b).stWr = s.stWr.set j true := rfl
@[simp] theorem State.writeSt_keyWr (j : Fin 16) (b : Byte) : (s.writeSt j b).keyWr = s.keyWr := rfl
@[simp] theorem State.writeSt_wWr (j : Fin 16) (b : Byte) : (s.writeSt j b).wWr = s.wWr := rfl
@[simp] theorem State.writeSt_host (j : Fin 16) (b : Byte) : (s.writeSt j b).host = s.host := rfl
@[simp] theorem State.writeSt_received (j : Fin 16) (b : Byte) : (s.writeSt j b).received = s.received := rfl
@[simp] theorem State.writeSt_freeCtr (j : Fin 16) (b : Byte) : (s.writeSt j b).freeCtr = s.freeCtr := rfl

@[simp] theorem State.writeKey_st (j : Fin 16) (b : Byte) : (s.writeKey j b).st = s.st := rfl
@[simp] theorem State.writeKey_key (j : Fin 16) (b : Byte) : (s.writeKey j b).key = s.key.set j b := rfl
@[simp] theorem State.writeKey_w (j : Fin 16) (b : Byte) : (s.writeKey j b).w = s.w := rfl
@[simp] theorem State.writeKey_fsm (j : Fin 16) (b : Byte) : (s.writeKey j b).fsm = s.fsm := rfl
@[simp] theorem State.writeKey_keyLen (j : Fin 16) (b : Byte) : (s.writeKey j b).keyLen = s.keyLen := rfl
@[simp] theorem State.writeKey_msgCnt (j : Fin 16) (b : Byte) : (s.writeKey j b).msgCnt = s.msgCnt := rfl
@[simp] theorem State.writeKey_kxI (j : Fin 16) (b : Byte) : (s.writeKey j b).kxI = s.kxI := rfl
@[simp] theorem State.writeKey_round (j : Fin 16) (b : Byte) : (s.writeKey j b).round = s.round := rfl
@[simp] theorem State.writeKey_idx (j : Fin 16) (b : Byte) : (s.writeKey j b).idx = s.idx := rfl
@[simp] theorem State.writeKey_last (j : Fin 16) (b : Byte) : (s.writeKey j b).last = s.last := rfl
@[simp] theorem State.writeKey_padMode (j : Fin 16) (b : Byte) : (s.writeKey j b).padMode = s.padMode := rfl
@[simp] theorem State.writeKey_done (j : Fin 16) (b : Byte) : (s.writeKey j b).done = s.done := rfl
@[simp] theorem State.writeKey_errKeyLen (j : Fin 16) (b : Byte) : (s.writeKey j b).errKeyLen = s.errKeyLen := rfl
@[simp] theorem State.writeKey_errCmd (j : Fin 16) (b : Byte) : (s.writeKey j b).errCmd = s.errCmd := rfl
@[simp] theorem State.writeKey_errWord (j : Fin 16) (b : Byte) : (s.writeKey j b).errWord = s.errWord := rfl
@[simp] theorem State.writeKey_outq (j : Fin 16) (b : Byte) : (s.writeKey j b).outq = s.outq := rfl
@[simp] theorem State.writeKey_outDepth (j : Fin 16) (b : Byte) : (s.writeKey j b).outDepth = s.outDepth := rfl
@[simp] theorem State.writeKey_stWr (j : Fin 16) (b : Byte) : (s.writeKey j b).stWr = s.stWr := rfl
@[simp] theorem State.writeKey_keyWr (j : Fin 16) (b : Byte) : (s.writeKey j b).keyWr = s.keyWr.set j true := rfl
@[simp] theorem State.writeKey_wWr (j : Fin 16) (b : Byte) : (s.writeKey j b).wWr = s.wWr := rfl
@[simp] theorem State.writeKey_host (j : Fin 16) (b : Byte) : (s.writeKey j b).host = s.host := rfl
@[simp] theorem State.writeKey_received (j : Fin 16) (b : Byte) : (s.writeKey j b).received = s.received := rfl
@[simp] theorem State.writeKey_freeCtr (j : Fin 16) (b : Byte) : (s.writeKey j b).freeCtr = s.freeCtr := rfl

@[simp] theorem State.writeW_st (i : Fin 44) (v : Word) : (s.writeW i v).st = s.st := rfl
@[simp] theorem State.writeW_key (i : Fin 44) (v : Word) : (s.writeW i v).key = s.key := rfl
@[simp] theorem State.writeW_w (i : Fin 44) (v : Word) : (s.writeW i v).w = s.w.set i v := rfl
@[simp] theorem State.writeW_fsm (i : Fin 44) (v : Word) : (s.writeW i v).fsm = s.fsm := rfl
@[simp] theorem State.writeW_keyLen (i : Fin 44) (v : Word) : (s.writeW i v).keyLen = s.keyLen := rfl
@[simp] theorem State.writeW_msgCnt (i : Fin 44) (v : Word) : (s.writeW i v).msgCnt = s.msgCnt := rfl
@[simp] theorem State.writeW_kxI (i : Fin 44) (v : Word) : (s.writeW i v).kxI = s.kxI := rfl
@[simp] theorem State.writeW_round (i : Fin 44) (v : Word) : (s.writeW i v).round = s.round := rfl
@[simp] theorem State.writeW_idx (i : Fin 44) (v : Word) : (s.writeW i v).idx = s.idx := rfl
@[simp] theorem State.writeW_last (i : Fin 44) (v : Word) : (s.writeW i v).last = s.last := rfl
@[simp] theorem State.writeW_padMode (i : Fin 44) (v : Word) : (s.writeW i v).padMode = s.padMode := rfl
@[simp] theorem State.writeW_done (i : Fin 44) (v : Word) : (s.writeW i v).done = s.done := rfl
@[simp] theorem State.writeW_errKeyLen (i : Fin 44) (v : Word) : (s.writeW i v).errKeyLen = s.errKeyLen := rfl
@[simp] theorem State.writeW_errCmd (i : Fin 44) (v : Word) : (s.writeW i v).errCmd = s.errCmd := rfl
@[simp] theorem State.writeW_errWord (i : Fin 44) (v : Word) : (s.writeW i v).errWord = s.errWord := rfl
@[simp] theorem State.writeW_outq (i : Fin 44) (v : Word) : (s.writeW i v).outq = s.outq := rfl
@[simp] theorem State.writeW_outDepth (i : Fin 44) (v : Word) : (s.writeW i v).outDepth = s.outDepth := rfl
@[simp] theorem State.writeW_stWr (i : Fin 44) (v : Word) : (s.writeW i v).stWr = s.stWr := rfl
@[simp] theorem State.writeW_keyWr (i : Fin 44) (v : Word) : (s.writeW i v).keyWr = s.keyWr := rfl
@[simp] theorem State.writeW_wWr (i : Fin 44) (v : Word) : (s.writeW i v).wWr = s.wWr.set i true := rfl
@[simp] theorem State.writeW_host (i : Fin 44) (v : Word) : (s.writeW i v).host = s.host := rfl
@[simp] theorem State.writeW_received (i : Fin 44) (v : Word) : (s.writeW i v).received = s.received := rfl
@[simp] theorem State.writeW_freeCtr (i : Fin 44) (v : Word) : (s.writeW i v).freeCtr = s.freeCtr := rfl

@[simp] theorem State.transformSt_st (f : Block → Block) : (s.transformSt f).st = f s.st := rfl
@[simp] theorem State.transformSt_key (f : Block → Block) : (s.transformSt f).key = s.key := rfl
@[simp] theorem State.transformSt_w (f : Block → Block) : (s.transformSt f).w = s.w := rfl
@[simp] theorem State.transformSt_fsm (f : Block → Block) : (s.transformSt f).fsm = s.fsm := rfl
@[simp] theorem State.transformSt_keyLen (f : Block → Block) : (s.transformSt f).keyLen = s.keyLen := rfl
@[simp] theorem State.transformSt_msgCnt (f : Block → Block) : (s.transformSt f).msgCnt = s.msgCnt := rfl
@[simp] theorem State.transformSt_kxI (f : Block → Block) : (s.transformSt f).kxI = s.kxI := rfl
@[simp] theorem State.transformSt_round (f : Block → Block) : (s.transformSt f).round = s.round := rfl
@[simp] theorem State.transformSt_idx (f : Block → Block) : (s.transformSt f).idx = s.idx := rfl
@[simp] theorem State.transformSt_last (f : Block → Block) : (s.transformSt f).last = s.last := rfl
@[simp] theorem State.transformSt_padMode (f : Block → Block) : (s.transformSt f).padMode = s.padMode := rfl
@[simp] theorem State.transformSt_done (f : Block → Block) : (s.transformSt f).done = s.done := rfl
@[simp] theorem State.transformSt_errKeyLen (f : Block → Block) : (s.transformSt f).errKeyLen = s.errKeyLen := rfl
@[simp] theorem State.transformSt_errCmd (f : Block → Block) : (s.transformSt f).errCmd = s.errCmd := rfl
@[simp] theorem State.transformSt_errWord (f : Block → Block) : (s.transformSt f).errWord = s.errWord := rfl
@[simp] theorem State.transformSt_outq (f : Block → Block) : (s.transformSt f).outq = s.outq := rfl
@[simp] theorem State.transformSt_outDepth (f : Block → Block) : (s.transformSt f).outDepth = s.outDepth := rfl
@[simp] theorem State.transformSt_stWr (f : Block → Block) : (s.transformSt f).stWr = s.stWr := rfl
@[simp] theorem State.transformSt_keyWr (f : Block → Block) : (s.transformSt f).keyWr = s.keyWr := rfl
@[simp] theorem State.transformSt_wWr (f : Block → Block) : (s.transformSt f).wWr = s.wWr := rfl
@[simp] theorem State.transformSt_host (f : Block → Block) : (s.transformSt f).host = s.host := rfl
@[simp] theorem State.transformSt_received (f : Block → Block) : (s.transformSt f).received = s.received := rfl
@[simp] theorem State.transformSt_freeCtr (f : Block → Block) : (s.transformSt f).freeCtr = s.freeCtr := rfl

@[simp] theorem State.goto_st (f : Fsm) : (s.goto f).st = s.st := rfl
@[simp] theorem State.goto_key (f : Fsm) : (s.goto f).key = s.key := rfl
@[simp] theorem State.goto_w (f : Fsm) : (s.goto f).w = s.w := rfl
@[simp] theorem State.goto_fsm (f : Fsm) : (s.goto f).fsm = f := rfl
@[simp] theorem State.goto_keyLen (f : Fsm) : (s.goto f).keyLen = s.keyLen := rfl
@[simp] theorem State.goto_msgCnt (f : Fsm) : (s.goto f).msgCnt = s.msgCnt := rfl
@[simp] theorem State.goto_kxI (f : Fsm) : (s.goto f).kxI = s.kxI := rfl
@[simp] theorem State.goto_round (f : Fsm) : (s.goto f).round = s.round := rfl
@[simp] theorem State.goto_idx (f : Fsm) : (s.goto f).idx = s.idx := rfl
@[simp] theorem State.goto_last (f : Fsm) : (s.goto f).last = s.last := rfl
@[simp] theorem State.goto_padMode (f : Fsm) : (s.goto f).padMode = s.padMode := rfl
@[simp] theorem State.goto_done (f : Fsm) : (s.goto f).done = s.done := rfl
@[simp] theorem State.goto_errKeyLen (f : Fsm) : (s.goto f).errKeyLen = s.errKeyLen := rfl
@[simp] theorem State.goto_errCmd (f : Fsm) : (s.goto f).errCmd = s.errCmd := rfl
@[simp] theorem State.goto_errWord (f : Fsm) : (s.goto f).errWord = s.errWord := rfl
@[simp] theorem State.goto_outq (f : Fsm) : (s.goto f).outq = s.outq := rfl
@[simp] theorem State.goto_outDepth (f : Fsm) : (s.goto f).outDepth = s.outDepth := rfl
@[simp] theorem State.goto_stWr (f : Fsm) : (s.goto f).stWr = s.stWr := rfl
@[simp] theorem State.goto_keyWr (f : Fsm) : (s.goto f).keyWr = s.keyWr := rfl
@[simp] theorem State.goto_wWr (f : Fsm) : (s.goto f).wWr = s.wWr := rfl
@[simp] theorem State.goto_host (f : Fsm) : (s.goto f).host = s.host := rfl
@[simp] theorem State.goto_received (f : Fsm) : (s.goto f).received = s.received := rfl
@[simp] theorem State.goto_freeCtr (f : Fsm) : (s.goto f).freeCtr = s.freeCtr := rfl

@[simp] theorem State.pushOut_st (g : Tag) (c : Byte) : (s.pushOut g c).st = s.st := rfl
@[simp] theorem State.pushOut_key (g : Tag) (c : Byte) : (s.pushOut g c).key = s.key := rfl
@[simp] theorem State.pushOut_w (g : Tag) (c : Byte) : (s.pushOut g c).w = s.w := rfl
@[simp] theorem State.pushOut_fsm (g : Tag) (c : Byte) : (s.pushOut g c).fsm = s.fsm := rfl
@[simp] theorem State.pushOut_keyLen (g : Tag) (c : Byte) : (s.pushOut g c).keyLen = s.keyLen := rfl
@[simp] theorem State.pushOut_msgCnt (g : Tag) (c : Byte) : (s.pushOut g c).msgCnt = s.msgCnt := rfl
@[simp] theorem State.pushOut_kxI (g : Tag) (c : Byte) : (s.pushOut g c).kxI = s.kxI := rfl
@[simp] theorem State.pushOut_round (g : Tag) (c : Byte) : (s.pushOut g c).round = s.round := rfl
@[simp] theorem State.pushOut_idx (g : Tag) (c : Byte) : (s.pushOut g c).idx = s.idx := rfl
@[simp] theorem State.pushOut_last (g : Tag) (c : Byte) : (s.pushOut g c).last = s.last := rfl
@[simp] theorem State.pushOut_padMode (g : Tag) (c : Byte) : (s.pushOut g c).padMode = s.padMode := rfl
@[simp] theorem State.pushOut_done (g : Tag) (c : Byte) : (s.pushOut g c).done = s.done := rfl
@[simp] theorem State.pushOut_errKeyLen (g : Tag) (c : Byte) : (s.pushOut g c).errKeyLen = s.errKeyLen := rfl
@[simp] theorem State.pushOut_errCmd (g : Tag) (c : Byte) : (s.pushOut g c).errCmd = s.errCmd := rfl
@[simp] theorem State.pushOut_errWord (g : Tag) (c : Byte) : (s.pushOut g c).errWord = s.errWord := rfl
@[simp] theorem State.pushOut_outq (g : Tag) (c : Byte) : (s.pushOut g c).outq =
    s.outq ++ [{ tag := g, char := c }] := rfl
@[simp] theorem State.pushOut_outDepth (g : Tag) (c : Byte) : (s.pushOut g c).outDepth = s.outDepth := rfl
@[simp] theorem State.pushOut_stWr (g : Tag) (c : Byte) : (s.pushOut g c).stWr = s.stWr := rfl
@[simp] theorem State.pushOut_keyWr (g : Tag) (c : Byte) : (s.pushOut g c).keyWr = s.keyWr := rfl
@[simp] theorem State.pushOut_wWr (g : Tag) (c : Byte) : (s.pushOut g c).wWr = s.wWr := rfl
@[simp] theorem State.pushOut_host (g : Tag) (c : Byte) : (s.pushOut g c).host = s.host := rfl
@[simp] theorem State.pushOut_received (g : Tag) (c : Byte) : (s.pushOut g c).received = s.received := rfl
@[simp] theorem State.pushOut_freeCtr (g : Tag) (c : Byte) : (s.pushOut g c).freeCtr = s.freeCtr := rfl

@[simp] theorem State.popOut_st : s.popOut.st = s.st := rfl
@[simp] theorem State.popOut_key : s.popOut.key = s.key := rfl
@[simp] theorem State.popOut_w : s.popOut.w = s.w := rfl
@[simp] theorem State.popOut_fsm : s.popOut.fsm = s.fsm := rfl
@[simp] theorem State.popOut_keyLen : s.popOut.keyLen = s.keyLen := rfl
@[simp] theorem State.popOut_msgCnt : s.popOut.msgCnt = s.msgCnt := rfl
@[simp] theorem State.popOut_kxI : s.popOut.kxI = s.kxI := rfl
@[simp] theorem State.popOut_round : s.popOut.round = s.round := rfl
@[simp] theorem State.popOut_idx : s.popOut.idx = s.idx := rfl
@[simp] theorem State.popOut_last : s.popOut.last = s.last := rfl
@[simp] theorem State.popOut_padMode : s.popOut.padMode = s.padMode := rfl
@[simp] theorem State.popOut_done : s.popOut.done = s.done := rfl
@[simp] theorem State.popOut_errKeyLen : s.popOut.errKeyLen = s.errKeyLen := rfl
@[simp] theorem State.popOut_errCmd : s.popOut.errCmd = s.errCmd := rfl
@[simp] theorem State.popOut_errWord : s.popOut.errWord = s.errWord := rfl
@[simp] theorem State.popOut_outq : s.popOut.outq = s.outq.tail := rfl
@[simp] theorem State.popOut_outDepth : s.popOut.outDepth = s.outDepth := rfl
@[simp] theorem State.popOut_stWr : s.popOut.stWr = s.stWr := rfl
@[simp] theorem State.popOut_keyWr : s.popOut.keyWr = s.keyWr := rfl
@[simp] theorem State.popOut_wWr : s.popOut.wWr = s.wWr := rfl
@[simp] theorem State.popOut_host : s.popOut.host = s.host := rfl
@[simp] theorem State.popOut_received : s.popOut.received = s.received ++ s.outq.head?.toList := rfl
@[simp] theorem State.popOut_freeCtr : s.popOut.freeCtr = s.freeCtr := rfl

@[simp] theorem State.raiseKey_st (n : Fin 18) : (s.raise (.keyLength n)).st = s.st := rfl
@[simp] theorem State.raiseKey_key (n : Fin 18) : (s.raise (.keyLength n)).key = s.key := rfl
@[simp] theorem State.raiseKey_w (n : Fin 18) : (s.raise (.keyLength n)).w = s.w := rfl
@[simp] theorem State.raiseKey_fsm (n : Fin 18) : (s.raise (.keyLength n)).fsm = s.fsm := rfl
@[simp] theorem State.raiseKey_keyLen (n : Fin 18) : (s.raise (.keyLength n)).keyLen = s.keyLen := rfl
@[simp] theorem State.raiseKey_msgCnt (n : Fin 18) : (s.raise (.keyLength n)).msgCnt = s.msgCnt := rfl
@[simp] theorem State.raiseKey_kxI (n : Fin 18) : (s.raise (.keyLength n)).kxI = s.kxI := rfl
@[simp] theorem State.raiseKey_round (n : Fin 18) : (s.raise (.keyLength n)).round = s.round := rfl
@[simp] theorem State.raiseKey_idx (n : Fin 18) : (s.raise (.keyLength n)).idx = s.idx := rfl
@[simp] theorem State.raiseKey_last (n : Fin 18) : (s.raise (.keyLength n)).last = s.last := rfl
@[simp] theorem State.raiseKey_padMode (n : Fin 18) : (s.raise (.keyLength n)).padMode = s.padMode := rfl
@[simp] theorem State.raiseKey_done (n : Fin 18) : (s.raise (.keyLength n)).done = s.done := rfl
@[simp] theorem State.raiseKey_errKeyLen (n : Fin 18) : (s.raise (.keyLength n)).errKeyLen = true := rfl
@[simp] theorem State.raiseKey_errCmd (n : Fin 18) : (s.raise (.keyLength n)).errCmd = s.errCmd := rfl
@[simp] theorem State.raiseKey_errWord (n : Fin 18) : (s.raise (.keyLength n)).errWord = s.errWord := rfl
@[simp] theorem State.raiseKey_outq (n : Fin 18) : (s.raise (.keyLength n)).outq = s.outq := rfl
@[simp] theorem State.raiseKey_outDepth (n : Fin 18) : (s.raise (.keyLength n)).outDepth = s.outDepth := rfl
@[simp] theorem State.raiseKey_stWr (n : Fin 18) : (s.raise (.keyLength n)).stWr = s.stWr := rfl
@[simp] theorem State.raiseKey_keyWr (n : Fin 18) : (s.raise (.keyLength n)).keyWr = s.keyWr := rfl
@[simp] theorem State.raiseKey_wWr (n : Fin 18) : (s.raise (.keyLength n)).wWr = s.wWr := rfl
@[simp] theorem State.raiseKey_host (n : Fin 18) : (s.raise (.keyLength n)).host = s.host := rfl
@[simp] theorem State.raiseKey_received (n : Fin 18) : (s.raise (.keyLength n)).received = s.received := rfl
@[simp] theorem State.raiseKey_freeCtr (n : Fin 18) : (s.raise (.keyLength n)).freeCtr = s.freeCtr := rfl

@[simp] theorem State.raiseCmd_st (d : CmdWord) : (s.raise (.illegalCmd d)).st = s.st := rfl
@[simp] theorem State.raiseCmd_key (d : CmdWord) : (s.raise (.illegalCmd d)).key = s.key := rfl
@[simp] theorem State.raiseCmd_w (d : CmdWord) : (s.raise (.illegalCmd d)).w = s.w := rfl
@[simp] theorem State.raiseCmd_fsm (d : CmdWord) : (s.raise (.illegalCmd d)).fsm = s.fsm := rfl
@[simp] theorem State.raiseCmd_keyLen (d : CmdWord) : (s.raise (.illegalCmd d)).keyLen = s.keyLen := rfl
@[simp] theorem State.raiseCmd_msgCnt (d : CmdWord) : (s.raise (.illegalCmd d)).msgCnt = s.msgCnt := rfl
@[simp] theorem State.raiseCmd_kxI (d : CmdWord) : (s.raise (.illegalCmd d)).kxI = s.kxI := rfl
@[simp] theorem State.raiseCmd_round (d : CmdWord) : (s.raise (.illegalCmd d)).round = s.round := rfl
@[simp] theorem State.raiseCmd_idx (d : CmdWord) : (s.raise (.illegalCmd d)).idx = s.idx := rfl
@[simp] theorem State.raiseCmd_last (d : CmdWord) : (s.raise (.illegalCmd d)).last = s.last := rfl
@[simp] theorem State.raiseCmd_padMode (d : CmdWord) : (s.raise (.illegalCmd d)).padMode = s.padMode := rfl
@[simp] theorem State.raiseCmd_done (d : CmdWord) : (s.raise (.illegalCmd d)).done = s.done := rfl
@[simp] theorem State.raiseCmd_errKeyLen (d : CmdWord) : (s.raise (.illegalCmd d)).errKeyLen = s.errKeyLen := rfl
@[simp] theorem State.raiseCmd_errCmd (d : CmdWord) : (s.raise (.illegalCmd d)).errCmd = true := rfl
@[simp] theorem State.raiseCmd_errWord (d : CmdWord) : (s.raise (.illegalCmd d)).errWord =
    if s.errCmd then s.errWord else d := rfl
@[simp] theorem State.raiseCmd_outq (d : CmdWord) : (s.raise (.illegalCmd d)).outq = s.outq := rfl
@[simp] theorem State.raiseCmd_outDepth (d : CmdWord) : (s.raise (.illegalCmd d)).outDepth = s.outDepth := rfl
@[simp] theorem State.raiseCmd_stWr (d : CmdWord) : (s.raise (.illegalCmd d)).stWr = s.stWr := rfl
@[simp] theorem State.raiseCmd_keyWr (d : CmdWord) : (s.raise (.illegalCmd d)).keyWr = s.keyWr := rfl
@[simp] theorem State.raiseCmd_wWr (d : CmdWord) : (s.raise (.illegalCmd d)).wWr = s.wWr := rfl
@[simp] theorem State.raiseCmd_host (d : CmdWord) : (s.raise (.illegalCmd d)).host = s.host := rfl
@[simp] theorem State.raiseCmd_received (d : CmdWord) : (s.raise (.illegalCmd d)).received = s.received := rfl
@[simp] theorem State.raiseCmd_freeCtr (d : CmdWord) : (s.raise (.illegalCmd d)).freeCtr = s.freeCtr := rfl

@[simp] theorem State.clearErrors_st : s.clearErrors.st = s.st := rfl
@[simp] theorem State.clearErrors_key : s.clearErrors.key = s.key := rfl
@[simp] theorem State.clearErrors_w : s.clearErrors.w = s.w := rfl
@[simp] theorem State.clearErrors_fsm : s.clearErrors.fsm = s.fsm := rfl
@[simp] theorem State.clearErrors_keyLen : s.clearErrors.keyLen = s.keyLen := rfl
@[simp] theorem State.clearErrors_msgCnt : s.clearErrors.msgCnt = s.msgCnt := rfl
@[simp] theorem State.clearErrors_kxI : s.clearErrors.kxI = s.kxI := rfl
@[simp] theorem State.clearErrors_round : s.clearErrors.round = s.round := rfl
@[simp] theorem State.clearErrors_idx : s.clearErrors.idx = s.idx := rfl
@[simp] theorem State.clearErrors_last : s.clearErrors.last = s.last := rfl
@[simp] theorem State.clearErrors_padMode : s.clearErrors.padMode = s.padMode := rfl
@[simp] theorem State.clearErrors_done : s.clearErrors.done = s.done := rfl
@[simp] theorem State.clearErrors_errKeyLen : s.clearErrors.errKeyLen = false := rfl
@[simp] theorem State.clearErrors_errCmd : s.clearErrors.errCmd = false := rfl
@[simp] theorem State.clearErrors_errWord : s.clearErrors.errWord = 0x0000#16 := rfl
@[simp] theorem State.clearErrors_outq : s.clearErrors.outq = s.outq := rfl
@[simp] theorem State.clearErrors_outDepth : s.clearErrors.outDepth = s.outDepth := rfl
@[simp] theorem State.clearErrors_stWr : s.clearErrors.stWr = s.stWr := rfl
@[simp] theorem State.clearErrors_keyWr : s.clearErrors.keyWr = s.keyWr := rfl
@[simp] theorem State.clearErrors_wWr : s.clearErrors.wWr = s.wWr := rfl
@[simp] theorem State.clearErrors_host : s.clearErrors.host = s.host := rfl
@[simp] theorem State.clearErrors_received : s.clearErrors.received = s.received := rfl
@[simp] theorem State.clearErrors_freeCtr : s.clearErrors.freeCtr = s.freeCtr := rfl

@[simp] theorem State.beginBlock_st (b : Bool) : (s.beginBlock b).st = s.st := rfl
@[simp] theorem State.beginBlock_key (b : Bool) : (s.beginBlock b).key = s.key := rfl
@[simp] theorem State.beginBlock_w (b : Bool) : (s.beginBlock b).w = s.w := rfl
@[simp] theorem State.beginBlock_fsm (b : Bool) : (s.beginBlock b).fsm = .rinit := rfl
@[simp] theorem State.beginBlock_keyLen (b : Bool) : (s.beginBlock b).keyLen = s.keyLen := rfl
@[simp] theorem State.beginBlock_msgCnt (b : Bool) : (s.beginBlock b).msgCnt = s.msgCnt := rfl
@[simp] theorem State.beginBlock_kxI (b : Bool) : (s.beginBlock b).kxI = s.kxI := rfl
@[simp] theorem State.beginBlock_round (b : Bool) : (s.beginBlock b).round = 0 := rfl
@[simp] theorem State.beginBlock_idx (b : Bool) : (s.beginBlock b).idx = s.idx := rfl
@[simp] theorem State.beginBlock_last (b : Bool) : (s.beginBlock b).last = b := rfl
@[simp] theorem State.beginBlock_padMode (b : Bool) : (s.beginBlock b).padMode = s.padMode := rfl
@[simp] theorem State.beginBlock_done (b : Bool) : (s.beginBlock b).done = s.done := rfl
@[simp] theorem State.beginBlock_errKeyLen (b : Bool) : (s.beginBlock b).errKeyLen = s.errKeyLen := rfl
@[simp] theorem State.beginBlock_errCmd (b : Bool) : (s.beginBlock b).errCmd = s.errCmd := rfl
@[simp] theorem State.beginBlock_errWord (b : Bool) : (s.beginBlock b).errWord = s.errWord := rfl
@[simp] theorem State.beginBlock_outq (b : Bool) : (s.beginBlock b).outq = s.outq := rfl
@[simp] theorem State.beginBlock_outDepth (b : Bool) : (s.beginBlock b).outDepth = s.outDepth := rfl
@[simp] theorem State.beginBlock_stWr (b : Bool) : (s.beginBlock b).stWr = s.stWr := rfl
@[simp] theorem State.beginBlock_keyWr (b : Bool) : (s.beginBlock b).keyWr = s.keyWr := rfl
@[simp] theorem State.beginBlock_wWr (b : Bool) : (s.beginBlock b).wWr = s.wWr := rfl
@[simp] theorem State.beginBlock_host (b : Bool) : (s.beginBlock b).host = s.host := rfl
@[simp] theorem State.beginBlock_received (b : Bool) : (s.beginBlock b).received = s.received := rfl
@[simp] theorem State.beginBlock_freeCtr (b : Bool) : (s.beginBlock b).freeCtr = s.freeCtr := rfl

@[simp] theorem State.appendMsg_key (d : Byte) : (s.appendMsg d).key = s.key := by
  unfold State.appendMsg; split <;> rfl
@[simp] theorem State.appendMsg_w (d : Byte) : (s.appendMsg d).w = s.w := by
  unfold State.appendMsg; split <;> rfl
@[simp] theorem State.appendMsg_fsm (d : Byte) : (s.appendMsg d).fsm = s.fsm := by
  unfold State.appendMsg; split <;> rfl
@[simp] theorem State.appendMsg_keyLen (d : Byte) : (s.appendMsg d).keyLen = s.keyLen := by
  unfold State.appendMsg; split <;> rfl
@[simp] theorem State.appendMsg_kxI (d : Byte) : (s.appendMsg d).kxI = s.kxI := by
  unfold State.appendMsg; split <;> rfl
@[simp] theorem State.appendMsg_round (d : Byte) : (s.appendMsg d).round = s.round := by
  unfold State.appendMsg; split <;> rfl
@[simp] theorem State.appendMsg_idx (d : Byte) : (s.appendMsg d).idx = s.idx := by
  unfold State.appendMsg; split <;> rfl
@[simp] theorem State.appendMsg_last (d : Byte) : (s.appendMsg d).last = s.last := by
  unfold State.appendMsg; split <;> rfl
@[simp] theorem State.appendMsg_padMode (d : Byte) : (s.appendMsg d).padMode = s.padMode := by
  unfold State.appendMsg; split <;> rfl
@[simp] theorem State.appendMsg_done (d : Byte) : (s.appendMsg d).done = s.done := by
  unfold State.appendMsg; split <;> rfl
@[simp] theorem State.appendMsg_errKeyLen (d : Byte) : (s.appendMsg d).errKeyLen = s.errKeyLen := by
  unfold State.appendMsg; split <;> rfl
@[simp] theorem State.appendMsg_errCmd (d : Byte) : (s.appendMsg d).errCmd = s.errCmd := by
  unfold State.appendMsg; split <;> rfl
@[simp] theorem State.appendMsg_errWord (d : Byte) : (s.appendMsg d).errWord = s.errWord := by
  unfold State.appendMsg; split <;> rfl
@[simp] theorem State.appendMsg_outq (d : Byte) : (s.appendMsg d).outq = s.outq := by
  unfold State.appendMsg; split <;> rfl
@[simp] theorem State.appendMsg_outDepth (d : Byte) : (s.appendMsg d).outDepth = s.outDepth := by
  unfold State.appendMsg; split <;> rfl
@[simp] theorem State.appendMsg_keyWr (d : Byte) : (s.appendMsg d).keyWr = s.keyWr := by
  unfold State.appendMsg; split <;> rfl
@[simp] theorem State.appendMsg_wWr (d : Byte) : (s.appendMsg d).wWr = s.wWr := by
  unfold State.appendMsg; split <;> rfl
@[simp] theorem State.appendMsg_host (d : Byte) : (s.appendMsg d).host = s.host := by
  unfold State.appendMsg; split <;> rfl
@[simp] theorem State.appendMsg_received (d : Byte) : (s.appendMsg d).received = s.received := by
  unfold State.appendMsg; split <;> rfl
@[simp] theorem State.appendMsg_freeCtr (d : Byte) : (s.appendMsg d).freeCtr = s.freeCtr := by
  unfold State.appendMsg; split <;> rfl

@[simp] theorem State.padTailPkcs7_st : s.padTailPkcs7.st =
    Vector.ofFn fun j : Fin 16 => if j.val < s.msgCnt.val then s.st[j] else padByte s.msgCnt := rfl
@[simp] theorem State.padTailPkcs7_key : s.padTailPkcs7.key = s.key := by simp only [State.padTailPkcs7]
@[simp] theorem State.padTailPkcs7_w : s.padTailPkcs7.w = s.w := by simp only [State.padTailPkcs7]
@[simp] theorem State.padTailPkcs7_fsm : s.padTailPkcs7.fsm = s.fsm := by simp only [State.padTailPkcs7]
@[simp] theorem State.padTailPkcs7_keyLen : s.padTailPkcs7.keyLen = s.keyLen := by simp only [State.padTailPkcs7]
@[simp] theorem State.padTailPkcs7_msgCnt : s.padTailPkcs7.msgCnt = s.msgCnt := by simp only [State.padTailPkcs7]
@[simp] theorem State.padTailPkcs7_kxI : s.padTailPkcs7.kxI = s.kxI := by simp only [State.padTailPkcs7]
@[simp] theorem State.padTailPkcs7_round : s.padTailPkcs7.round = s.round := by simp only [State.padTailPkcs7]
@[simp] theorem State.padTailPkcs7_idx : s.padTailPkcs7.idx = s.idx := by simp only [State.padTailPkcs7]
@[simp] theorem State.padTailPkcs7_last : s.padTailPkcs7.last = s.last := by simp only [State.padTailPkcs7]
@[simp] theorem State.padTailPkcs7_padMode : s.padTailPkcs7.padMode = s.padMode := by simp only [State.padTailPkcs7]
@[simp] theorem State.padTailPkcs7_done : s.padTailPkcs7.done = s.done := by simp only [State.padTailPkcs7]
@[simp] theorem State.padTailPkcs7_errKeyLen : s.padTailPkcs7.errKeyLen = s.errKeyLen := by simp only [State.padTailPkcs7]
@[simp] theorem State.padTailPkcs7_errCmd : s.padTailPkcs7.errCmd = s.errCmd := by simp only [State.padTailPkcs7]
@[simp] theorem State.padTailPkcs7_errWord : s.padTailPkcs7.errWord = s.errWord := by simp only [State.padTailPkcs7]
@[simp] theorem State.padTailPkcs7_outq : s.padTailPkcs7.outq = s.outq := by simp only [State.padTailPkcs7]
@[simp] theorem State.padTailPkcs7_outDepth : s.padTailPkcs7.outDepth = s.outDepth := by simp only [State.padTailPkcs7]
@[simp] theorem State.padTailPkcs7_stWr : s.padTailPkcs7.stWr =
    Vector.ofFn fun j : Fin 16 => if j.val < s.msgCnt.val then s.stWr[j] else true := rfl
@[simp] theorem State.padTailPkcs7_keyWr : s.padTailPkcs7.keyWr = s.keyWr := by simp only [State.padTailPkcs7]
@[simp] theorem State.padTailPkcs7_wWr : s.padTailPkcs7.wWr = s.wWr := by simp only [State.padTailPkcs7]
@[simp] theorem State.padTailPkcs7_host : s.padTailPkcs7.host = s.host := by simp only [State.padTailPkcs7]
@[simp] theorem State.padTailPkcs7_received : s.padTailPkcs7.received = s.received := by simp only [State.padTailPkcs7]
@[simp] theorem State.padTailPkcs7_freeCtr : s.padTailPkcs7.freeCtr = s.freeCtr := by simp only [State.padTailPkcs7]

@[simp] theorem State.padTailX923_st : s.padTailX923.st =
    Vector.ofFn fun j : Fin 16 => if j.val = 15 then padByte s.msgCnt else if j.val < s.msgCnt.val then s.st[j] else 0x00#8 := rfl
@[simp] theorem State.padTailX923_key : s.padTailX923.key = s.key := by simp only [State.padTailX923]
@[simp] theorem State.padTailX923_w : s.padTailX923.w = s.w := by simp only [State.padTailX923]
@[simp] theorem State.padTailX923_fsm : s.padTailX923.fsm = s.fsm := by simp only [State.padTailX923]
@[simp] theorem State.padTailX923_keyLen : s.padTailX923.keyLen = s.keyLen := by simp only [State.padTailX923]
@[simp] theorem State.padTailX923_msgCnt : s.padTailX923.msgCnt = s.msgCnt := by simp only [State.padTailX923]
@[simp] theorem State.padTailX923_kxI : s.padTailX923.kxI = s.kxI := by simp only [State.padTailX923]
@[simp] theorem State.padTailX923_round : s.padTailX923.round = s.round := by simp only [State.padTailX923]
@[simp] theorem State.padTailX923_idx : s.padTailX923.idx = s.idx := by simp only [State.padTailX923]
@[simp] theorem State.padTailX923_last : s.padTailX923.last = s.last := by simp only [State.padTailX923]
@[simp] theorem State.padTailX923_padMode : s.padTailX923.padMode = s.padMode := by simp only [State.padTailX923]
@[simp] theorem State.padTailX923_done : s.padTailX923.done = s.done := by simp only [State.padTailX923]
@[simp] theorem State.padTailX923_errKeyLen : s.padTailX923.errKeyLen = s.errKeyLen := by simp only [State.padTailX923]
@[simp] theorem State.padTailX923_errCmd : s.padTailX923.errCmd = s.errCmd := by simp only [State.padTailX923]
@[simp] theorem State.padTailX923_errWord : s.padTailX923.errWord = s.errWord := by simp only [State.padTailX923]
@[simp] theorem State.padTailX923_outq : s.padTailX923.outq = s.outq := by simp only [State.padTailX923]
@[simp] theorem State.padTailX923_outDepth : s.padTailX923.outDepth = s.outDepth := by simp only [State.padTailX923]
@[simp] theorem State.padTailX923_stWr : s.padTailX923.stWr =
    Vector.ofFn fun j : Fin 16 => if j.val = 15 then true else if j.val < s.msgCnt.val then s.stWr[j] else true := rfl
@[simp] theorem State.padTailX923_keyWr : s.padTailX923.keyWr = s.keyWr := by simp only [State.padTailX923]
@[simp] theorem State.padTailX923_wWr : s.padTailX923.wWr = s.wWr := by simp only [State.padTailX923]
@[simp] theorem State.padTailX923_host : s.padTailX923.host = s.host := by simp only [State.padTailX923]
@[simp] theorem State.padTailX923_received : s.padTailX923.received = s.received := by simp only [State.padTailX923]
@[simp] theorem State.padTailX923_freeCtr : s.padTailX923.freeCtr = s.freeCtr := by simp only [State.padTailX923]

@[simp] theorem State.startCall_st (m : PadMode) : (s.startCall m).st = s.st := rfl
@[simp] theorem State.startCall_key (m : PadMode) : (s.startCall m).key = s.key := rfl
@[simp] theorem State.startCall_w (m : PadMode) : (s.startCall m).w =
    (((s.w.set 0 (keyWord s.key 0)).set 1 (keyWord s.key 1)).set 2 (keyWord s.key 2)).set 3 (keyWord s.key 3) := rfl
@[simp] theorem State.startCall_fsm (m : PadMode) : (s.startCall m).fsm = .echo := rfl
@[simp] theorem State.startCall_keyLen (m : PadMode) : (s.startCall m).keyLen = s.keyLen := rfl
@[simp] theorem State.startCall_msgCnt (m : PadMode) : (s.startCall m).msgCnt = 0 := rfl
@[simp] theorem State.startCall_kxI (m : PadMode) : (s.startCall m).kxI = s.kxI := rfl
@[simp] theorem State.startCall_round (m : PadMode) : (s.startCall m).round = s.round := rfl
@[simp] theorem State.startCall_idx (m : PadMode) : (s.startCall m).idx = 0 := rfl
@[simp] theorem State.startCall_last (m : PadMode) : (s.startCall m).last = s.last := rfl
@[simp] theorem State.startCall_padMode (m : PadMode) : (s.startCall m).padMode = m := rfl
@[simp] theorem State.startCall_done (m : PadMode) : (s.startCall m).done = false := rfl
@[simp] theorem State.startCall_errKeyLen (m : PadMode) : (s.startCall m).errKeyLen = s.errKeyLen := rfl
@[simp] theorem State.startCall_errCmd (m : PadMode) : (s.startCall m).errCmd = s.errCmd := rfl
@[simp] theorem State.startCall_errWord (m : PadMode) : (s.startCall m).errWord = s.errWord := rfl
@[simp] theorem State.startCall_outq (m : PadMode) : (s.startCall m).outq = s.outq := rfl
@[simp] theorem State.startCall_outDepth (m : PadMode) : (s.startCall m).outDepth = s.outDepth := rfl
@[simp] theorem State.startCall_stWr (m : PadMode) : (s.startCall m).stWr = s.stWr := rfl
@[simp] theorem State.startCall_keyWr (m : PadMode) : (s.startCall m).keyWr = s.keyWr := rfl
@[simp] theorem State.startCall_wWr (m : PadMode) : (s.startCall m).wWr =
    (((s.wWr.set 0 true).set 1 true).set 2 true).set 3 true := rfl
@[simp] theorem State.startCall_host (m : PadMode) : (s.startCall m).host = s.host := rfl
@[simp] theorem State.startCall_received (m : PadMode) : (s.startCall m).received = s.received := rfl
@[simp] theorem State.startCall_freeCtr (m : PadMode) : (s.startCall m).freeCtr = s.freeCtr := rfl

@[simp] theorem State.applyReset_st : s.applyReset.st = unspecifiedBlock s.freeCtr 0 := by simp only [State.applyReset]
@[simp] theorem State.applyReset_key : s.applyReset.key = unspecifiedBlock s.freeCtr 1 := by simp only [State.applyReset]
@[simp] theorem State.applyReset_w : s.applyReset.w = unspecifiedSchedule s.freeCtr := by simp only [State.applyReset]
@[simp] theorem State.applyReset_fsm : s.applyReset.fsm = .idle := by simp only [State.applyReset]
@[simp] theorem State.applyReset_keyLen : s.applyReset.keyLen = 0 := by simp only [State.applyReset]
@[simp] theorem State.applyReset_msgCnt : s.applyReset.msgCnt = 0 := by simp only [State.applyReset]
@[simp] theorem State.applyReset_kxI : s.applyReset.kxI = 0 := by simp only [State.applyReset]
@[simp] theorem State.applyReset_round : s.applyReset.round = 0 := by simp only [State.applyReset]
@[simp] theorem State.applyReset_idx : s.applyReset.idx = 0 := by simp only [State.applyReset]
@[simp] theorem State.applyReset_last : s.applyReset.last = false := by simp only [State.applyReset]
@[simp] theorem State.applyReset_padMode : s.applyReset.padMode = .pkcs7 := by simp only [State.applyReset]
@[simp] theorem State.applyReset_done : s.applyReset.done = false := by simp only [State.applyReset]
@[simp] theorem State.applyReset_errKeyLen : s.applyReset.errKeyLen = false := by simp only [State.applyReset]
@[simp] theorem State.applyReset_errCmd : s.applyReset.errCmd = false := by simp only [State.applyReset]
@[simp] theorem State.applyReset_errWord : s.applyReset.errWord = 0x0000#16 := by simp only [State.applyReset]
@[simp] theorem State.applyReset_outq : s.applyReset.outq = [] := by simp only [State.applyReset]
@[simp] theorem State.applyReset_outDepth : s.applyReset.outDepth = s.outDepth := by simp only [State.applyReset]
@[simp] theorem State.applyReset_stWr : s.applyReset.stWr = Vector.ofFn fun _ => false := by simp only [State.applyReset]
@[simp] theorem State.applyReset_keyWr : s.applyReset.keyWr = Vector.ofFn fun _ => false := by simp only [State.applyReset]
@[simp] theorem State.applyReset_wWr : s.applyReset.wWr = Vector.ofFn fun _ => false := by simp only [State.applyReset]
@[simp] theorem State.applyReset_host : s.applyReset.host = s.host := by simp only [State.applyReset]
@[simp] theorem State.applyReset_received : s.applyReset.received = s.received := by simp only [State.applyReset]
@[simp] theorem State.applyReset_freeCtr : s.applyReset.freeCtr = s.freeCtr + 1 := by simp only [State.applyReset]

end Sys2Proof.Machine
end

