-- ==== Sys2Proof/Laws/Ops.lean ====
section
/-! SUPPORT. What each shared operation can do, said once: the counters' increment, acceptance of a command, a
micro-step, the fetch in each controller state, the end of a cycle, and the fields no instruction writes. -/

namespace Sys2Proof.Machine

variable {s t : State} {i : Instr} {o : Host.Outcome State Fault Refusal}

/-! ### The counters -/

theorem bump_val_of_lt {n : Nat} {k : Fin (n + 1)} (h : k.val < n) : (bump k).val = k.val + 1 := by
  simp [bump, h]

theorem bump_val_of_ge {n : Nat} {k : Fin (n + 1)} (h : n ≤ k.val) : bump k = k := by
  simp [bump, Nat.not_lt.mpr h]

theorem le_bump_val {n : Nat} (k : Fin (n + 1)) : k.val ≤ (bump k).val := by
  unfold bump; split <;> simp

/-! ### The words the recurrence reads -/

theorem wordBefore_of_le {w : Schedule} {i : Fin 44} {d : Nat} (h : d ≤ i.val) :
    wordBefore w i d = w[i.val - d] := by
  simp [wordBefore, h]

/-! ### Appending a message byte -/

theorem appendMsg_of_lt {d : Byte} (h : s.msgCnt.val < 16) :
    s.appendMsg d = { s.writeSt ⟨s.msgCnt.val, h⟩ d with msgCnt := bump s.msgCnt } := by
  simp [State.appendMsg, h]

/-- With the counter at 16 no byte is written, and the counter is left open (log entry 8). -/
theorem appendMsg_of_full {d : Byte} (h : s.msgCnt = 16) :
    s.appendMsg d = { s with msgCnt := Config.msgCntPast d } := by
  have hn : ¬ s.msgCnt.val < 16 := by rw [h]; decide
  simp [State.appendMsg, hn]

/-! ### Acceptance and micro-steps -/

theorem accept_of_legal (hq : s.fsm.quiescent = true) (hl : legalIn i s.fsm = true) : accept i s o = o := by
  simp [accept, hq, hl]

theorem accept_of_illegal (hq : s.fsm.quiescent = true) (hl : legalIn i s.fsm = false) :
    accept i s o = .next (s.raise (.illegalCmd (encode i).bits)) := by
  simp [accept, hq, hl]

theorem accept_of_busy (hq : s.fsm.quiescent = false) : accept i s o = .next s := by
  simp [accept, hq]

/-- Everything `accept` can answer with a next state: performed, refused as illegal, or not accepted. -/
theorem accept_next (h : accept i s o = .next t) :
    (s.fsm.quiescent = true ∧ legalIn i s.fsm = true ∧ o = .next t) ∨
      (s.fsm.quiescent = true ∧ legalIn i s.fsm = false ∧ t = s.raise (.illegalCmd (encode i).bits)) ∨
      (s.fsm.quiescent = false ∧ t = s) := by
  cases hq : s.fsm.quiescent
  · right; right
    rw [accept_of_busy hq] at h
    exact ⟨rfl, (Host.Outcome.next.inj h).symm⟩
  · cases hl : legalIn i s.fsm
    · right; left
      rw [accept_of_illegal hq hl] at h
      exact ⟨rfl, rfl, (Host.Outcome.next.inj h).symm⟩
    · left
      rw [accept_of_legal hq hl] at h
      exact ⟨rfl, rfl, h⟩

theorem microStep_of_eq {f : Fsm} (h : s.fsm = f) : microStep f s o = o := by
  simp [microStep, h]

theorem microStep_of_ne {f : Fsm} (h : s.fsm ≠ f) : microStep f s o = .next s := by
  simp [microStep, h]

/-- Everything a micro-step can answer with a next state: taken in its controller state, or not enabled. -/
theorem microStep_next {f : Fsm} (h : microStep f s o = .next t) :
    (s.fsm = f ∧ o = .next t) ∨ (s.fsm ≠ f ∧ t = s) := by
  by_cases hf : s.fsm = f
  · exact .inl ⟨hf, by rwa [microStep_of_eq hf] at h⟩
  · rw [microStep_of_ne hf] at h
    exact .inr ⟨hf, (Host.Outcome.next.inj h).symm⟩

/-! ### The fetch -/

@[simp] theorem Fsm.ofCode_code (f : Fsm) : Fsm.ofCode f.code = some f := by
  cases f <;> rfl

/-- The micro-operation of a controller state; the quiescent states have none (R86). -/
def Fsm.microOp : Fsm → Option Instr
  | .idle | .accept => none
  | .echo => some .echo
  | .kexp => some .kexp
  | .rinit => some .rinit
  | .rsub => some .rsub
  | .rshift => some .rshift
  | .rmix => some .rmix
  | .radd => some .radd
  | .emit => some .emit

theorem decodeMicro_code (f : Fsm) :
    decodeMicro f.code = match f.microOp with
      | some i => .ok i
      | none => .error .waitsForCommand := by
  cases f <;> rfl

theorem fetch_of_micro (h : s.fsm.microOp = some i) : s.fetch = .run i := by
  simp [State.fetch, decodeMicro_code, h]

theorem microOp_of_quiescent {f : Fsm} (h : f.quiescent = true) : f.microOp = none := by
  cases f <;> simp_all [Fsm.quiescent, Fsm.microOp]

theorem fetch_of_quiescent (h : s.fsm.quiescent = true) :
    s.fetch = match s.ports.cmd with
      | none => .wait
      | some word =>
        match decodeCmd word with
        | .ok i => .run i
        | .error _ => .illegal word := by
  have hm : decodeMicro s.fsm.code = .error .waitsForCommand := by
    simp only [decodeMicro_code, microOp_of_quiescent h]
  rcases hc : s.ports.cmd with _ | word
  · simp [State.fetch, hm, hc]
  · cases hd : decodeCmd word <;> simp [State.fetch, hm, hc, hd]

/-! ### The cycle -/

theorem step_of_reset (h : s.ports.rst = true) : step s = .next { s.applyReset with host := s.hostAfter } := by
  simp [step, cycle, h]

theorem step_of_noReset (h : s.ports.rst = false) : step s = onNext s.endCycle (engineStep s) := by
  simp [step, cycle, h]

theorem onNext_next {f : State → State} (h : onNext f o = .next t) : ∃ u, o = .next u ∧ t = f u := by
  cases o with
  | next u => exact ⟨u, rfl, (Host.Outcome.next.inj h).symm⟩
  | fault r => cases h
  | refused r => cases h

/-- Everything the engine can do in a cycle without reset: wait, take an undecodable word, or run an instruction. -/
theorem engineStep_next (h : engineStep s = .next t) :
    (s.fetch = .wait ∧ t = s) ∨ (∃ d, s.fetch = .illegal d ∧ t = s.raise (.illegalCmd d)) ∨
      ∃ i, s.fetch = .run i ∧ exec i s = .next t := by
  unfold engineStep at h
  split at h
  case h_1 hf => exact .inl ⟨hf, (Host.Outcome.next.inj h).symm⟩
  case h_2 d hf => exact .inr (.inl ⟨d, hf, (Host.Outcome.next.inj h).symm⟩)
  case h_3 i hf => exact .inr (.inr ⟨i, hf, h⟩)

/-- Everything one step can do: reset, or an engine step and the end of its cycle. -/
theorem step_next (h : step s = .next t) :
    (s.ports.rst = true ∧ t = { s.applyReset with host := s.hostAfter }) ∨
      (s.ports.rst = false ∧ ∃ u, engineStep s = .next u ∧ t = s.endCycle u) := by
  cases hr : s.ports.rst
  · rw [step_of_noReset hr] at h
    exact .inr ⟨rfl, onNext_next h⟩
  · rw [step_of_reset hr] at h
    exact .inl ⟨rfl, (Host.Outcome.next.inj h).symm⟩

@[simp] theorem endCycle_host (s t : State) : (s.endCycle t).host = s.hostAfter := rfl

theorem endCycle_outq (s t : State) : (s.endCycle t).outq = if s.pops then t.outq.tail else t.outq := by
  unfold State.endCycle; split <;> rfl

theorem endCycle_received (s t : State) :
    (s.endCycle t).received = if s.pops then t.received ++ t.outq.head?.toList else t.received := by
  unfold State.endCycle; split <;> rfl

/-- The end of a cycle writes `outq`, `received` and `host` only. -/
theorem endCycle_engine (s t : State) :
    (s.endCycle t).st = t.st ∧ (s.endCycle t).key = t.key ∧ (s.endCycle t).w = t.w ∧ (s.endCycle t).fsm = t.fsm ∧
      (s.endCycle t).keyLen = t.keyLen ∧ (s.endCycle t).msgCnt = t.msgCnt ∧ (s.endCycle t).kxI = t.kxI ∧
      (s.endCycle t).round = t.round ∧ (s.endCycle t).idx = t.idx ∧ (s.endCycle t).last = t.last ∧
      (s.endCycle t).padMode = t.padMode ∧ (s.endCycle t).done = t.done ∧
      (s.endCycle t).errKeyLen = t.errKeyLen ∧ (s.endCycle t).errCmd = t.errCmd ∧
      (s.endCycle t).errWord = t.errWord ∧ (s.endCycle t).outDepth = t.outDepth ∧
      (s.endCycle t).stWr = t.stWr ∧ (s.endCycle t).keyWr = t.keyWr ∧ (s.endCycle t).wWr = t.wWr ∧
      (s.endCycle t).freeCtr = t.freeCtr := by
  unfold State.endCycle; split <;> simp

theorem ports_rst_of_noReset (h : ∀ c ∈ s.host, c.rst = false) : s.ports.rst = false := by
  unfold State.ports
  cases hh : s.host with
  | nil => rfl
  | cons c cs => exact h c (by simp [hh])

/-- A host that plans no reset plans none after a cycle either. -/
theorem hostAfter_noReset (h : ∀ c ∈ s.host, c.rst = false) : ∀ c ∈ s.hostAfter, c.rst = false := by
  intro c hc
  unfold State.hostAfter at hc
  split at hc
  · rcases List.mem_cons.mp hc with rfl | hc
    · rfl
    · exact h c (List.mem_of_mem_tail hc)
  · exact h c (List.mem_of_mem_tail hc)

/-! ### What an instruction can do -/

/-- Whether an instruction is performed in a controller state: a command where R100 allows it, a micro-operation where
the controller code selects it (R86). -/
def enabled (i : Instr) (f : Fsm) : Prop :=
  legalIn i f = true ∨ f.microOp = some i

/-- The state an instruction leaves when it is performed. -/
def performed : Instr → State → State
  | .nop, s => s
  | .keyClr, s => { s with keyLen := 0, keyWr := Vector.ofFn fun _ => false }
  | .keyWr d, s =>
    if h : s.keyLen.val < 16 then { s.writeKey ⟨s.keyLen.val, h⟩ d with keyLen := bump s.keyLen }
    else { s with keyLen := 17 }
  | .start m, s => if s.keyLen = 16 then s.startCall m else s.raise (.keyLength s.keyLen)
  | .msgWr d, s => if (s.appendMsg d).msgCnt = 16 then (s.appendMsg d).beginBlock false else s.appendMsg d
  | .msgEnd, s =>
    if s.padMode = .pkcs7 then { s.padTailPkcs7 with msgCnt := 16 }.beginBlock true
    else if s.msgCnt = 0 then { s with done := true, fsm := .idle }
    else { s.padTailX923 with msgCnt := 16 }.beginBlock true
  | .errClr, s => s.clearErrors
  | .echo, s =>
    if s.canPush then
      if s.idx = 31 then
        { s.pushOut .keyEcho (hexDigit (nibbleAt s.key s.idx)) with kxI := 4, fsm := .kexp }
      else { s.pushOut .keyEcho (hexDigit (nibbleAt s.key s.idx)) with idx := bump s.idx }
    else s
  | .kexp, s =>
    let t := s.writeW s.kxI (scheduleWord s.kxI.val (wordBefore s.w s.kxI 1) (wordBefore s.w s.kxI 4))
    if s.kxI.val = 43 then t.goto .accept else { t with kxI := bump s.kxI }
  | .rinit, s => { s.transformSt (fun b => addRoundKey b s.w 0) with round := 1, fsm := .rsub }
  | .rsub, s => (s.transformSt subBytes).goto .rshift
  | .rshift, s => (s.transformSt shiftRows).goto (if s.round.val < 10 then .rmix else .radd)
  | .rmix, s => (s.transformSt mixColumns).goto .radd
  | .radd, s =>
    if s.round.val < 10 then
      { s.transformSt (fun b => addRoundKey b s.w s.round) with round := bump s.round, fsm := .rsub }
    else { s.transformSt (fun b => addRoundKey b s.w s.round) with idx := 0, fsm := .emit }
  | .emit, s =>
    if s.canPush then
      if s.idx = 31 then
        if s.last then
          { s.pushOut .ciphertext (hexDigit (nibbleAt s.st s.idx)) with msgCnt := 0, done := true, fsm := .idle }
        else { s.pushOut .ciphertext (hexDigit (nibbleAt s.st s.idx)) with msgCnt := 0, fsm := .accept }
      else { s.pushOut .ciphertext (hexDigit (nibbleAt s.st s.idx)) with idx := bump s.idx }
    else s

/-- A command that is not legal where it is accepted, and the state it leaves (R225). -/
def refusedAs (i : Instr) (s t : State) : Prop :=
  s.fsm.quiescent = true ∧ legalIn i s.fsm = false ∧ ∃ w, encode i = .cmd w ∧ t = s.raise (.illegalCmd w)

theorem command_cases {u : State} {w : CmdWord} (hw : encode i = .cmd w) (h : accept i s o = .next t)
    (hu : o = .next t → t = u) : t = s ∨ refusedAs i s t ∨ (enabled i s.fsm ∧ t = u) := by
  rcases accept_next h with ⟨-, hl, h⟩ | ⟨hq, hl, rfl⟩ | ⟨-, rfl⟩
  · exact .inr (.inr ⟨.inl hl, hu h⟩)
  · exact .inr (.inl ⟨hq, hl, w, hw, by rw [hw]; rfl⟩)
  · exact .inl rfl

theorem micro_cases {f : Fsm} {u : State} (hf : f.microOp = some i) (h : microStep f s o = .next t)
    (hu : o = .next t → t = u) : t = s ∨ refusedAs i s t ∨ (enabled i s.fsm ∧ t = u) := by
  rcases microStep_next h with ⟨hs, h⟩ | ⟨-, rfl⟩
  · exact .inr (.inr ⟨.inr (hs ▸ hf), hu h⟩)
  · exact .inl rfl

/-- Everything `exec` can answer with a next state: nothing happens (not accepted, or not enabled), an illegal command
is recorded, or the instruction is performed. -/
theorem exec_next (h : exec i s = .next t) :
    t = s ∨ refusedAs i s t ∨ (enabled i s.fsm ∧ t = performed i s) := by
  cases i <;> simp only [exec] at h
  case nop => exact command_cases rfl h fun h => (Host.Outcome.next.inj h).symm
  case keyClr => exact command_cases rfl h fun h => (Host.Outcome.next.inj h).symm
  case keyWr d => exact command_cases rfl h fun h => (Host.Outcome.next.inj h).symm
  case start m => exact command_cases rfl h fun h => (Host.Outcome.next.inj h).symm
  case msgWr d => exact command_cases rfl h fun h => (Host.Outcome.next.inj h).symm
  case msgEnd =>
    refine command_cases rfl h fun h => ?_
    rw [← Host.Outcome.next.inj h, performed]
    cases s.padMode <;> rfl
  case errClr => exact command_cases rfl h fun h => (Host.Outcome.next.inj h).symm
  case echo => exact micro_cases rfl h fun h => (Host.Outcome.next.inj h).symm
  case kexp => exact micro_cases rfl h fun h => (Host.Outcome.next.inj h).symm
  case rinit => exact micro_cases rfl h fun h => (Host.Outcome.next.inj h).symm
  case rsub => exact micro_cases rfl h fun h => (Host.Outcome.next.inj h).symm
  case rshift => exact micro_cases rfl h fun h => (Host.Outcome.next.inj h).symm
  case rmix => exact micro_cases rfl h fun h => (Host.Outcome.next.inj h).symm
  case radd => exact micro_cases rfl h fun h => (Host.Outcome.next.inj h).symm
  case emit => exact micro_cases rfl h fun h => (Host.Outcome.next.inj h).symm

/-- The host's side and the parameter are not written by any instruction. -/
theorem exec_env (h : exec i s = .next t) :
    t.outDepth = s.outDepth ∧ t.host = s.host ∧ t.received = s.received ∧ t.freeCtr = s.freeCtr := by
  rcases exec_next h with rfl | ⟨-, -, -, -, rfl⟩ | ⟨-, rfl⟩
  · simp
  · simp
  · cases i <;> simp only [performed] <;> repeat' split
    all_goals simp

/-- Only ECHO and EMIT touch the FIFO, and only by one push into a FIFO with room (R205). -/
theorem exec_outq (h : exec i s = .next t) :
    t.outq = s.outq ∨ (s.canPush = true ∧ ∃ e, t.outq = s.outq ++ [e]) := by
  rcases exec_next h with rfl | ⟨-, -, -, -, rfl⟩ | ⟨-, rfl⟩
  · simp
  · simp
  · cases i <;> simp only [performed] <;> repeat' split
    all_goals simp_all

/-- Every instruction answers a next state, whatever the state: the engine has no trap, no refusal and no reachable
model fault (R228, R230). -/
theorem exec_isNext (i : Instr) (s : State) : ∃ t, exec i s = .next t := by
  have hacc : ∀ (j : Instr) (u : State), ∃ t, accept j s (.next u) = .next t := by
    intro j u
    unfold accept
    repeat' split
    all_goals exact ⟨_, rfl⟩
  have hmic : ∀ (f : Fsm) (u : State), ∃ t, microStep f s (.next u) = .next t := by
    intro f u
    unfold microStep
    split <;> exact ⟨_, rfl⟩
  cases i <;> simp only [exec]
  case nop | keyClr | keyWr | start | msgWr | msgEnd | errClr => exact hacc _ _
  case echo | kexp | rinit | rsub | rshift | rmix | radd | emit => exact hmic _ _

/-- No instruction is refused: every one has its meaning. -/
theorem exec_ne_refused (i : Instr) (s : State) (r : Refusal) : exec i s ≠ .refused r := by
  obtain ⟨t, h⟩ := exec_isNext i s
  simp [h]

end Sys2Proof.Machine
end

