-- ==== Sys2Proof/Laws/PerInstr.lean ====
section
/-! SUPPORT. Statements about every instruction as syntax, made per constructor. Family `TableRow`: the encoding of an
instruction lies in its own row of the opcode table (30_encoding.md R83, R86). -/

namespace Sys2Proof.Laws

/-- The row of the opcode map a command belongs to, by position in R83. -/
def commandRow : Instr → Option Nat
  | .nop => some 0
  | .keyClr => some 1
  | .keyWr _ => some 2
  | .start _ => some 3
  | .msgWr _ => some 4
  | .msgEnd => some 5
  | .errClr => some 6
  | .echo | .kexp | .rinit | .rsub | .rshift | .rmix | .radd | .emit => none

/-- The word of a command lies in its row of R83; the code of a micro-operation is 1, 2 or 4 to 9 (R86). -/
def TableRow.Statement (i : Instr) : Prop :=
  match commandRow i, encode i with
  | some n, .cmd w => ∃ r, opcodeMap[n]? = some r ∧ r.covers w = true
  | none, .fsm c => c ≠ 0x0#4 ∧ c ≠ 0x3#4 ∧ c.toNat ≤ 9
  | _, _ => False

theorem TableRow.nop : TableRow.Statement .nop :=
  ⟨_, rfl, by decide⟩

theorem TableRow.keyClr : TableRow.Statement .keyClr :=
  ⟨_, rfl, by decide⟩

theorem TableRow.keyWr (d : Byte) : TableRow.Statement (.keyWr d) :=
  ⟨_, rfl, by revert d; decide⟩

theorem TableRow.start (m : PadMode) : TableRow.Statement (.start m) :=
  ⟨_, rfl, by cases m <;> decide⟩

theorem TableRow.msgWr (d : Byte) : TableRow.Statement (.msgWr d) :=
  ⟨_, rfl, by revert d; decide⟩

theorem TableRow.msgEnd : TableRow.Statement .msgEnd :=
  ⟨_, rfl, by decide⟩

theorem TableRow.errClr : TableRow.Statement .errClr :=
  ⟨_, rfl, by decide⟩

theorem TableRow.echo : TableRow.Statement .echo := by
  simp [TableRow.Statement, commandRow, encode]

theorem TableRow.kexp : TableRow.Statement .kexp := by
  simp [TableRow.Statement, commandRow, encode]

theorem TableRow.rinit : TableRow.Statement .rinit := by
  simp [TableRow.Statement, commandRow, encode]

theorem TableRow.rsub : TableRow.Statement .rsub := by
  simp [TableRow.Statement, commandRow, encode]

theorem TableRow.rshift : TableRow.Statement .rshift := by
  simp [TableRow.Statement, commandRow, encode]

theorem TableRow.rmix : TableRow.Statement .rmix := by
  simp [TableRow.Statement, commandRow, encode]

theorem TableRow.radd : TableRow.Statement .radd := by
  simp [TableRow.Statement, commandRow, encode]

theorem TableRow.emit : TableRow.Statement .emit := by
  simp [TableRow.Statement, commandRow, encode]

end Sys2Proof.Laws
end

