-- ==== Sys2Proof/Tests/Slice0.lean ====
section
/-! SUPPORT. Small tests, each expected value from the spec (30_encoding.md, 95_test_vectors.md), and for every
statement with hypotheses a concrete state and operands that meet all of them together. -/

namespace Sys2Proof.Tests

open Sys2Proof Sys2Proof.Machine

/-! ### Helpers -/

/-- The key 00 01 .. 0f of 95_test_vectors.md. -/
def keyC : Block := #v[0x00#8, 0x01, 0x02, 0x03, 0x04, 0x05, 0x06, 0x07, 0x08, 0x09, 0x0a, 0x0b, 0x0c, 0x0d, 0x0e, 0x0f]

/-- The key 2b7e1516.. of 95_test_vectors.md T4.2, T6.1. -/
def keyB : Block := #v[0x2b#8, 0x7e, 0x15, 0x16, 0x28, 0xae, 0xd2, 0xa6, 0xab, 0xf7, 0x15, 0x88, 0x09, 0xcf, 0x4f, 0x3c]

/-- The first two round keys of `keyB` (T4.3), the later words left 0. -/
def schedB : Schedule :=
  ((((Vector.replicate 44 0#32).set 0 0x2b7e1516#32).set 1 0x28aed2a6#32).set 2 0xabf71588#32).set 3 0x09cf4f3c#32

/-- The sixth line of T4.3 up to round key 1. -/
def schedB1 : Schedule :=
  (((schedB.set 4 0xa0fafe17#32).set 5 0x88542cb1#32).set 6 0x23a33939#32).set 7 0x2a6c7605#32

/-- The last round key of `keyB` (T4.3), the other words left 0. -/
def schedB10 : Schedule :=
  ((((Vector.replicate 44 0#32).set 40 0xd014f9a8#32).set 41 0xc9ee2589#32).set 42 0xe13f0cc8#32).set 43 0xb6630ca6#32

/-- A small engine: the key 00..0f, everything written, an empty FIFO of two entries. -/
def base : State :=
  { State.reset with
    st := keyC, key := keyC, w := schedB1, keyLen := 16, outDepth := 2
    stWr := Vector.replicate 16 true, keyWr := Vector.replicate 16 true, wWr := Vector.replicate 44 true }

/-- `base` in a controller state. -/
def at_ (f : Fsm) : State := { base with fsm := f }

/-- An entry to fill the FIFO with. -/
def entry : OutEntry := { tag := .keyEcho, char := 0x30#8 }

/-- A field of the next state. -/
def after {α : Type} (o : Host.Outcome State Fault Refusal) (f : State → α) : Option α :=
  match o with
  | .next t => some (f t)
  | .fault _ => none
  | .refused _ => none

/-- What the decoder reads. -/
def reads (e : Encoded) : Option Instr :=
  (decode e).toOption

/-- Why it refuses. -/
def reason (r : Except Reject Instr) : Option Reject :=
  match r with
  | .ok _ => none
  | .error e => some e

/-! ### WellFormed: what the checks refuse -/

theorem test_wf_echo_is_no_command : wellFormedProgram [.start .pkcs7, .echo] = false := by decide
theorem test_wf_kexp_is_no_command : wellFormedProgram [.kexp] = false := by decide
theorem test_wf_rinit_is_no_command : wellFormedProgram [.rinit] = false := by decide
theorem test_wf_rsub_is_no_command : wellFormedProgram [.rsub] = false := by decide
theorem test_wf_rshift_is_no_command : wellFormedProgram [.rshift] = false := by decide
theorem test_wf_rmix_is_no_command : wellFormedProgram [.rmix] = false := by decide
theorem test_wf_radd_is_no_command : wellFormedProgram [.radd] = false := by decide
theorem test_wf_emit_is_no_command : wellFormedProgram [.msgEnd, .emit] = false := by decide
theorem test_wf_byte_256_refused : wellFormedByte 256 = false ∧ wellFormedByte 255 = true := by decide
theorem test_wf_commands_accepted :
    wellFormedProgram [.nop, .keyClr, .keyWr 0xff#8, .start .x923, .msgWr 0x00#8, .msgEnd, .errClr] = true := by decide

/-! ### Decode: words written out from the spec's encoding (OP, RSV, M, D of R80; codes of R28) -/

theorem test_decode_nop : reads (.cmd 0b0000000000000000#16) = some .nop := by decide
theorem test_decode_keyClr : reads (.cmd 0b0001000000000000#16) = some .keyClr := by decide
theorem test_decode_keyWr : reads (.cmd 0b0010000000101011#16) = some (.keyWr 0x2b#8) := by decide
theorem test_decode_keyWr_ff : reads (.cmd 0b0010000011111111#16) = some (.keyWr 0xff#8) := by decide
theorem test_decode_start_pkcs7 : reads (.cmd 0b0011000000000000#16) = some (.start .pkcs7) := by decide
theorem test_decode_start_x923 : reads (.cmd 0b0011000100000000#16) = some (.start .x923) := by decide
theorem test_decode_msgWr : reads (.cmd 0b0100000001100001#16) = some (.msgWr 0x61#8) := by decide
theorem test_decode_msgEnd : reads (.cmd 0b0101000000000000#16) = some .msgEnd := by decide
theorem test_decode_errClr : reads (.cmd 0b0110000000000000#16) = some .errClr := by decide
theorem test_decode_echo : reads (.fsm 0b0001#4) = some .echo := by decide
theorem test_decode_kexp : reads (.fsm 0b0010#4) = some .kexp := by decide
theorem test_decode_rinit : reads (.fsm 0b0100#4) = some .rinit := by decide
theorem test_decode_rsub : reads (.fsm 0b0101#4) = some .rsub := by decide
theorem test_decode_rshift : reads (.fsm 0b0110#4) = some .rshift := by decide
theorem test_decode_rmix : reads (.fsm 0b0111#4) = some .rmix := by decide
theorem test_decode_radd : reads (.fsm 0b1000#4) = some .radd := by decide
theorem test_decode_emit : reads (.fsm 0b1001#4) = some .emit := by decide

/-- The illegal words of T1, each with its reason (R85). -/
theorem test_decode_illegal :
    reason (decodeCmd 0x0001#16) = some .dataByte ∧ reason (decodeCmd 0x0800#16) = some .reservedBits ∧
      reason (decodeCmd 0x2100#16) = some .modeBit ∧ reason (decodeCmd 0x3001#16) = some .dataByte ∧
      reason (decodeCmd 0x3200#16) = some .reservedBits ∧ reason (decodeCmd 0x5100#16) = some .modeBit ∧
      reason (decodeCmd 0x6001#16) = some .dataByte ∧ reason (decodeCmd 0x7000#16) = some .reservedOpcode ∧
      reason (decodeCmd 0x7123#16) = some .reservedOpcode ∧ reason (decodeCmd 0x8000#16) = some .reservedOpcode ∧
      reason (decodeCmd 0xffff#16) = some .reservedOpcode := by decide

/-- The codes that select no micro-operation (R29, R86). -/
theorem test_decode_codes_without_micro :
    reason (decodeMicro 0x0#4) = some .waitsForCommand ∧ reason (decodeMicro 0x3#4) = some .waitsForCommand ∧
      reason (decodeMicro 0xa#4) = some .noState ∧ reason (decodeMicro 0xf#4) = some .noState := by decide

/-! ### Assembler (R87, R88, R89) -/

theorem test_asm_byte_forms :
    assembleText "KEY_WR 0x2b" = some [0x202b#16] ∧ assembleText "msg_wr 'a'" = some [0x4061#16] ∧
      assembleText "MSG_WR 256" = none := by decide +kernel

theorem test_asm_encrypt :
    assembleText "ENCRYPT PKCS7, \"abc\" ; a call" = some [0x3000#16, 0x4061#16, 0x4062#16, 0x4063#16, 0x5000#16] := by
  decide +kernel

/-! ### One step of each instruction (T2, T4.2, T5, T6.1) -/

theorem test_nop_from_port :
    after (step { base with host := [wordCycle (some 0x0000#16)] }) (fun t => (t.status, t.fsm))
      = some (0x1040#16, .idle) := by decide

theorem test_keyClr_status :
    after (exec .keyClr { base with keyLen := 17, errKeyLen := true }) (fun t => (t.status, t.key))
      = some (0x0048#16, keyC) := by decide

theorem test_keyWr_sixteenth :
    after (exec (.keyWr 0xaa#8) { base with keyLen := 15 }) (fun t => (t.key[15], t.key[14], t.keyLen))
      = some (0xaa#8, 0x0e#8, 16) := by decide

theorem test_keyWr_seventeenth_is_discarded :
    after (exec (.keyWr 0x11#8) base) (fun t => (t.key, t.keyLen)) = some (keyC, 17) := by decide

theorem test_start_loads_schedule_head :
    after (exec (.start .x923) base) (fun t => (t.w[0], t.w[1], t.w[3], t.status))
      = some (0x00010203#32, 0x04050607#32, 0x0c0d0e0f#32, 0x1061#16) := by decide

theorem test_start_short_key :
    after (exec (.start .pkcs7) { base with keyLen := 15 }) (fun t => (t.status, t.fsm, t.w))
      = some (0x0f48#16, .idle, schedB1) := by decide

theorem test_msgWr_third_byte :
    after (exec (.msgWr 0x63#8) { at_ .accept with msgCnt := 2 }) (fun t => (t.st[2], t.st[3], t.msgCnt, t.fsm))
      = some (0x63#8, 0x03#8, 3, .accept) := by decide

theorem test_msgWr_completes_block :
    after (exec (.msgWr 0x00#8) { at_ .accept with msgCnt := 15, last := true })
      (fun t => (t.st[15], t.msgCnt, t.last, t.fsm)) = some (0x00#8, 16, false, .rinit) := by decide

theorem test_msgEnd_pkcs7_abc :
    after (exec .msgEnd { at_ .accept with msgCnt := 3 }) (fun t => (t.st[2], t.st[3], t.st[15], t.last, t.fsm))
      = some (0x02#8, 0x0d#8, 0x0d#8, true, .rinit) := by decide

theorem test_msgEnd_x923_abc :
    after (exec .msgEnd { at_ .accept with msgCnt := 3, padMode := .x923 })
      (fun t => (t.st[2], t.st[3], t.st[14], t.st[15], t.fsm))
      = some (0x02#8, 0x00#8, 0x00#8, 0x0d#8, .rinit) := by decide

theorem test_errClr_status :
    after (exec .errClr { base with errKeyLen := true, errCmd := true, errWord := 0x7000#16 })
      (fun t => (t.status, t.errInfo)) = some (0x1040#16, 0x0000#16) := by decide

theorem test_illegal_word_captured :
    after (step { base with host := [wordCycle (some 0x6001#16)] }) (fun t => (t.status, t.errInfo))
      = some (0x1050#16, 0x6001#16) := by decide

theorem test_echo_high_nibble :
    after (exec .echo { at_ .echo with key := keyB }) (fun t => (t.outq, t.idx))
      = some ([{ tag := .keyEcho, char := 0x32#8 }], 1) := by decide

theorem test_echo_last_low_nibble :
    after (exec .echo { at_ .echo with key := keyB, idx := 31 }) (fun t => (t.outq, t.fsm, t.kxI))
      = some ([{ tag := .keyEcho, char := 0x63#8 }], .kexp, 4) := by decide

theorem test_kexp_word_4 :
    after (exec .kexp { at_ .kexp with w := schedB, kxI := 4 }) (fun t => (t.w[4], t.kxI))
      = some (0xa0fafe17#32, 5) := by decide

theorem test_kexp_word_5 :
    after (exec .kexp { at_ .kexp with w := schedB.set 4 0xa0fafe17#32, kxI := 5 }) (fun t => (t.w[5], t.fsm))
      = some (0x88542cb1#32, .kexp) := by decide

theorem test_rinit_vector :
    after (exec .rinit { at_ .rinit with
      st := #v[0x32#8, 0x43, 0xf6, 0xa8, 0x88, 0x5a, 0x30, 0x8d, 0x31, 0x31, 0x98, 0xa2, 0xe0, 0x37, 0x07, 0x34] })
      (fun t => (t.st, t.round))
      = some (#v[0x19#8, 0x3d, 0xe3, 0xbe, 0xa0, 0xf4, 0xe2, 0x2b, 0x9a, 0xc6, 0x8d, 0x2a, 0xe9, 0xf8, 0x48, 0x08], 1) := by
  decide

theorem test_rsub_vector :
    after (exec .rsub (at_ .rsub)) (fun t => (t.st, t.fsm))
      = some (#v[0x63#8, 0x7c, 0x77, 0x7b, 0xf2, 0x6b, 0x6f, 0xc5, 0x30, 0x01, 0x67, 0x2b, 0xfe, 0xd7, 0xab, 0x76],
        .rshift) := by decide

theorem test_rshift_vector :
    after (exec .rshift { at_ .rshift with round := 9 }) (fun t => (t.st, t.fsm))
      = some (#v[0x00#8, 0x05, 0x0a, 0x0f, 0x04, 0x09, 0x0e, 0x03, 0x08, 0x0d, 0x02, 0x07, 0x0c, 0x01, 0x06, 0x0b],
        .rmix) := by decide

theorem test_rmix_vector :
    after (exec .rmix { at_ .rmix with round := 1 }) (fun t => (t.st, t.fsm))
      = some (#v[0x02#8, 0x07, 0x00, 0x05, 0x06, 0x03, 0x04, 0x01, 0x0a, 0x0f, 0x08, 0x0d, 0x0e, 0x0b, 0x0c, 0x09],
        .radd) := by decide

theorem test_radd_round_1 :
    after (exec .radd { at_ .radd with
      round := 1
      st := #v[0x04#8, 0x66, 0x81, 0xe5, 0xe0, 0xcb, 0x19, 0x9a, 0x48, 0xf8, 0xd3, 0x7a, 0x28, 0x06, 0x26, 0x4c] })
      (fun t => (t.st, t.round))
      = some (#v[0xa4#8, 0x9c, 0x7f, 0xf2, 0x68, 0x9f, 0x35, 0x2b, 0x6b, 0x5b, 0xea, 0x43, 0x02, 0x6a, 0x50, 0x49], 2) := by
  decide

theorem test_radd_round_10_ends_block :
    after (exec .radd { at_ .radd with round := 10, st := Vector.replicate 16 0x00#8, w := schedB10 })
      (fun t => (t.st[0], t.st[15], t.round, t.fsm)) = some (0xd0#8, 0xa6#8, 10, .emit) := by decide

theorem test_emit_last_character :
    after (exec .emit { at_ .emit with idx := 31, last := true }) (fun t => (t.outq, t.fsm, t.done))
      = some ([{ tag := .ciphertext, char := 0x66#8 }], .idle, true) := by decide

theorem test_emit_holds_when_full :
    after (exec .emit { at_ .emit with outq := [entry, entry] }) (fun t => (t.outq, t.idx))
      = some ([entry, entry], 0) := by decide

/-! ### Witnesses: encoding -/

theorem witness_DecodeEncodeRoundTrip :
    (Instr.keyWr 0xff#8).wellFormed = true ∧ (Instr.start .x923).wellFormed = true ∧ Instr.emit.wellFormed = true := by
  decide

theorem witness_EncodeDecodeRoundTrip :
    decode (.cmd 0x3100#16) = .ok (.start .x923) ∧ decode (.fsm 0x9#4) = .ok .emit := ⟨rfl, rfl⟩

/-- One word for each opcode clause; 7 and 15 bound the last one. -/
theorem witness_DecoderFollowsItsCases :
    (0x0000#16).extractLsb' 12 4 = 0x0#4 ∧ (0x1000#16).extractLsb' 12 4 = 0x1#4 ∧ (0x20ff#16).extractLsb' 12 4 = 0x2#4 ∧
      (0x3100#16).extractLsb' 12 4 = 0x3#4 ∧ (0x4000#16).extractLsb' 12 4 = 0x4#4 ∧
      (0x5000#16).extractLsb' 12 4 = 0x5#4 ∧ (0x6000#16).extractLsb' 12 4 = 0x6#4 ∧
      7 ≤ ((0x7000#16).extractLsb' 12 4).toNat ∧ 7 ≤ ((0xffff#16).extractLsb' 12 4).toNat := by decide

/-- A line of text within range, one with a code point above 255, a byte above 255 and the largest word. -/
theorem witness_AssembledLinesAreEncodedCommands :
    (∃ is, (AsmLine.encrypt .x923 [0x61, 255]).commands = some is) ∧ (∀ c ∈ [0x61, 255], c ≤ 255) ∧
      (∃ c ∈ [0x61, 256], 255 < c) ∧ 255 ≤ 255 ∧ 255 < 256 ∧ 65535 < 65536 ∧ 65536 ≤ 65536 := by
  refine ⟨⟨_, rfl⟩, ?_⟩
  decide

theorem witness_OpcodeRowsCoverLegalWordsOnce :
    ∃ r ∈ opcodeMap, r.covers 0x20ff#16 = true := by decide

/-- The words of opcode 0 with and without a reserved bit. -/
theorem witness_NopHasNoEffect :
    (0x0000#16).extractLsb' 12 4 = 0x0#4 ∧ (0x0800#16).extractLsb' 12 4 = 0x0#4 := by decide

theorem witness_IllegalWordOnlyRaisesError :
    let s := { at_ .accept with host := [wordCycle (some 0x7000#16)] }
    s.ports.rst = false ∧ (s.fsm = .idle ∨ s.fsm = .accept) ∧ s.ports.cmd = some 0x7000#16 ∧ s.pops = false ∧
      (decodeCmd 0x7000#16).toOption = none := by decide

/-! ### Witnesses: steps -/

theorem witness_StepRunsDecodedInstruction_command :
    let s := { base with host := [wordCycle (some 0x202b#16)] }
    s.ports.rst = false ∧ (s.fsm = .idle ∨ s.fsm = .accept) ∧ s.ports.cmd = some 0x202b#16 ∧
      decodeCmd 0x202b#16 = .ok (.keyWr 0x2b#8) := ⟨by decide, by decide, by decide, rfl⟩

theorem witness_StepRunsDecodedInstruction_micro :
    (at_ .rsub).ports.rst = false ∧ decodeMicro (at_ .rsub).fsm.code = .ok .rsub := ⟨by decide, rfl⟩

/-- An undecodable word accepted in a cycle with a due pop, and a quiescent engine with no command. -/
theorem witness_StepRunsDecodedInstruction_illegal_and_wait :
    let s := { at_ .accept with outq := [entry], host := [streamCycle 0x7000#16] }
    (s.ports.rst = false ∧ s.fsm = .accept ∧ s.ports.cmd = some 0x7000#16 ∧ (decodeCmd 0x7000#16).toOption = none ∧
        s.pops = true) ∧
      (base.ports.rst = false ∧ base.fsm = .idle ∧ base.ports.cmd = none) := by decide

theorem witness_StepRunsDecodedInstruction_pop :
    let s := { base with outq := [entry], host := [popCycle] }
    s.outq ≠ [] ∧ s.ports.rst = false ∧ s.ports.outReady = true := by decide

theorem witness_StepRunsDecodedInstruction_no_pop :
    (base.outq = [] ∨ base.ports.outReady = false) ∧
      (let s := { base with outq := [entry] }; s.outq = [] ∨ s.ports.outReady = false) := by decide

theorem witness_PlacedInstructionIsFetched :
    encode (.start .x923) = .cmd 0x3100#16 ∧ encode .kexp = .fsm 0x2#4 := by decide

theorem witness_CommandLegalityTable_idle :
    encode .msgEnd = .cmd 0x5000#16 ∧ base.fsm = .idle ∧ encode (.msgWr 0x61#8) = .cmd 0x4061#16 := by decide

theorem witness_CommandLegalityTable_accept :
    (at_ .accept).fsm = .accept ∧ encode .keyClr = .cmd 0x1000#16 ∧ encode (.keyWr 0x00#8) = .cmd 0x2000#16 ∧
      encode (.start .pkcs7) = .cmd 0x3000#16 := by decide

/-- A held word before a busy engine, with a next state. -/
theorem witness_BusyEngineLeavesCommandPending :
    let s := { at_ .rsub with host := [wordCycle (some 0x5000#16)] }
    s.fsm ≠ .idle ∧ s.fsm ≠ .accept ∧ s.ports.rst = false ∧ s.ports.cmd = some 0x5000#16 ∧ s.ports.hold = true ∧
      after (step s) State.ports = some s.ports := by decide

/-! ### Witnesses: commands -/

/-- The two quiescent states, for NOP, ERR_CLR, KEY_CLR and the forms refused as illegal. -/
theorem witness_quiescent_states : base.fsm = .idle ∧ (at_ .accept).fsm = .accept := by decide

/-- `key_len` at 0 and 15 (appended), 16 and 17 (discarded). -/
theorem witness_KeyWrAppendsKeyByte :
    base.fsm = .idle ∧ ({ base with keyLen := 0 } : State).keyLen.val < 16 ∧
      ({ base with keyLen := 15 } : State).keyLen.val < 16 ∧ 16 ≤ base.keyLen.val ∧
      16 ≤ ({ base with keyLen := 17 } : State).keyLen.val := by decide

theorem witness_StartRefusesWrongKeyLength :
    let s := { base with keyLen := 15 }
    let s' := { base with keyLen := 17 }
    s.fsm = .idle ∧ s.keyLen ≠ 16 ∧ s'.fsm = .idle ∧ s'.keyLen ≠ 16 := by decide

theorem witness_StartBeginsCall : base.fsm = .idle ∧ base.keyLen = 16 := by decide

/-- `msg_cnt` at 0 and 14 (append), and 15 (the block is complete). -/
theorem witness_MsgWrAppendsMessageByte :
    (at_ .accept).fsm = .accept ∧ (at_ .accept).msgCnt.val < 15 ∧
      ({ at_ .accept with msgCnt := 14 } : State).msgCnt.val < 15 ∧
      ({ at_ .accept with msgCnt := 15 } : State).msgCnt = 15 := by decide

theorem witness_MsgEndPadsPkcs7 : (at_ .accept).fsm = .accept ∧ (at_ .accept).padMode = .pkcs7 := by decide

/-- `msg_cnt` 0 (no block), 1 and 15 (a padded block). -/
theorem witness_MsgEndPadsX923 :
    let s := { at_ .accept with padMode := .x923 }
    let s1 := { s with msgCnt := 1 }
    let s15 := { s with msgCnt := 15 }
    s.fsm = .accept ∧ s.padMode = .x923 ∧ s.msgCnt = 0 ∧ s1.fsm = .accept ∧ s1.padMode = .x923 ∧ s1.msgCnt ≠ 0 ∧
      s15.fsm = .accept ∧ s15.padMode = .x923 ∧ s15.msgCnt ≠ 0 := by decide

/-- A command that runs and one turned away as illegal: both have a next state. -/
theorem witness_CommandFrame :
    encode (.keyWr 0x11#8) = .cmd 0x2011#16 ∧ after (exec (.keyWr 0x11#8) base) State.keyLen = some 17 ∧
      after (exec (.keyWr 0x11#8) (at_ .accept)) State.errWord = some 0x2011#16 := by decide

/-! ### Witnesses: micro-operations -/

/-- ECHO and EMIT: a full FIFO, and one with room at `idx` 0, 30 and 31, with `last` both ways. -/
theorem witness_EchoPushesKeyDigit :
    let full := { at_ .echo with outq := [entry, entry] }
    let room := { at_ .echo with idx := 30 }
    let end_ := { at_ .echo with idx := 31 }
    full.fsm = .echo ∧ full.outDepth ≤ full.outq.length ∧ room.fsm = .echo ∧ room.outq.length < room.outDepth ∧
      room.idx.val < 31 ∧ end_.fsm = .echo ∧ end_.outq.length < end_.outDepth ∧ end_.idx = 31 := by decide

theorem witness_EmitPushesCiphertextDigit :
    let full := { at_ .emit with outq := [entry, entry] }
    let room := { at_ .emit with idx := 30 }
    let end_ := { at_ .emit with idx := 31 }
    let final := { at_ .emit with idx := 31, last := true }
    full.fsm = .emit ∧ full.outDepth ≤ full.outq.length ∧ room.fsm = .emit ∧ room.outq.length < room.outDepth ∧
      room.idx.val < 31 ∧ end_.fsm = .emit ∧ end_.outq.length < end_.outDepth ∧ end_.idx = 31 ∧ end_.last = false ∧
      final.fsm = .emit ∧ final.outq.length < final.outDepth ∧ final.idx = 31 ∧ final.last = true := by decide

/-- `kx_i` at 4 (SubWord), 42 and 43 (the last). -/
theorem witness_KexpComputesScheduleWord :
    let s4 := { at_ .kexp with kxI := 4 }
    let s42 := { at_ .kexp with kxI := 42 }
    let s43 := { at_ .kexp with kxI := 43 }
    s4.fsm = .kexp ∧ 4 ≤ s4.kxI.val ∧ s4.kxI.val < 43 ∧ s42.fsm = .kexp ∧ 4 ≤ s42.kxI.val ∧ s42.kxI.val < 43 ∧
      s43.fsm = .kexp ∧ 4 ≤ s43.kxI.val ∧ s43.kxI = 43 := by decide

/-- The round steps, with `round` 9 and 10 for RSHIFT and RADD. -/
theorem witness_round_steps :
    (at_ .rinit).fsm = .rinit ∧ (at_ .rsub).fsm = .rsub ∧ (at_ .rmix).fsm = .rmix ∧
      (let s := { at_ .rshift with round := 9 }; s.fsm = .rshift ∧ s.round.val < 10) ∧
      (let s := { at_ .rshift with round := 10 }; s.fsm = .rshift ∧ s.round = 10) ∧
      (let s := { at_ .radd with round := 9 }; s.fsm = .radd ∧ s.round.val < 10) ∧
      (let s := { at_ .radd with round := 10 }; s.fsm = .radd ∧ s.round = 10) := by decide

theorem witness_MicroOperationFrame :
    encode .kexp = .fsm 0x2#4 ∧
      after (exec .kexp { at_ .kexp with kxI := 43 }) State.fsm = some .accept := by decide

theorem witness_OutOfRangeIndexRunsOn :
    let s := { at_ .accept with msgCnt := 16 }
    let s' := { at_ .kexp with kxI := 3 }
    s.fsm = .accept ∧ s.msgCnt = 16 ∧ s'.fsm = .kexp ∧ s'.kxI.val < 4 := by decide

/-! ### Witnesses: tables, transforms, key schedule, padding -/

theorem witness_SboxIsAffineInversePermutation :
    (0x53#8 : Byte) ≠ 0x00#8 ∧ sbox 0x53#8 = 0xed#8 ∧ sbox 0x00#8 = 0x63#8 ∧ sbox 0xff#8 = 0x16#8 := by decide

theorem witness_RconIsPowersOfTwo :
    (1 ≤ 1 ∧ 1 ≤ 9 ∧ rcon 2 = 0x02#8) ∧ (1 ≤ 9 ∧ 9 ≤ 9 ∧ rcon 10 = 0x36#8) ∧
      (1 ≤ 10 ∧ 10 ≤ 10 ∧ rconWord 10 = 0x36000000#32) := by decide

/-- T5.4: db135345 gives 8e4da1bc. -/
theorem witness_MixColumnsIsMatrixProduct :
    let s : Block := keyC.set 4 0xdb#8 |>.set 5 0x13#8 |>.set 6 0x53#8 |>.set 7 0x45#8
    (0xdb#8 = s[4] ∧ 0x13#8 = s[5] ∧ 0x53#8 = s[6] ∧ 0x45#8 = s[7]) ∧
      ((mixColumns s)[4] = 0x8e#8 ∧ (mixColumns s)[5] = 0x4d#8 ∧ (mixColumns s)[6] = 0xa1#8 ∧
        (mixColumns s)[7] = 0xbc#8) := by decide

theorem witness_AddRoundKeyXorsColumns :
    ∃ t : Block, t = addRoundKey keyC schedB 0 ∧ t[0] = 0x2b#8 ∧ t[15] = 0x33#8 := by
  refine ⟨_, rfl, ?_⟩
  decide

/-- T4.3: words 4 and 43 of the schedule of `keyB`. -/
theorem witness_KeyScheduleRecurrence :
    (4 ≤ 4 ∧ 4 ≤ 43 ∧ (expand keyB)[4]? = some 0xa0fafe17#32) ∧
      (4 ≤ 43 ∧ 43 ≤ 43 ∧ (expand keyB)[43]? = some 0xb6630ca6#32) := by decide

/-- "abc" (T3): 13 bytes of padding; and sixteen bytes, which X.923 leaves alone. -/
theorem witness_PaddedLengthAndLastByte :
    ([0x61#8, 0x62#8, 0x63#8].length % 16 ≠ 0 ∧ (padX923 [0x61#8, 0x62#8, 0x63#8]).getLast? = some 0x0d#8) ∧
      keyC.toList.length % 16 = 0 := by decide

theorem witness_TailPaddingMakesLastBlock :
    let s := { at_ .accept with st := (keyC.set 0 0x61#8).set 1 0x62#8 |>.set 2 0x63#8, msgCnt := 3 }
    let m := keyC.toList ++ [0x61#8, 0x62#8, 0x63#8]
    s.msgCnt.val = m.length % 16 ∧
      (∀ j : Fin 16, j.val < s.msgCnt.val → s.st[j] = m.getD (16 * (m.length / 16) + j.val) 0#8) ∧
      m.length % 16 ≠ 0 ∧ 0 < m.length / 16 := by decide

/-! ### Witnesses: controller and runs -/

/-- Every row of R181 that a command or a micro-step takes has a state that takes it. -/
theorem witness_ControllerTransitions_idle :
    let cmd (s : State) (w : CmdWord) := { s with host := [wordCycle (some w)] }
    after (step (cmd { base with keyLen := 15 } 0x3000#16)) State.fsm = some .idle ∧
      after (step (cmd base 0x3000#16)) State.fsm = some .echo ∧
      after (step (cmd base 0x1000#16)) State.fsm = some .idle ∧ after (step base) State.fsm = some .idle := by
  decide

theorem witness_ControllerTransitions_accept :
    let cmd (s : State) (w : CmdWord) := { s with host := [wordCycle (some w)] }
    after (step (cmd { at_ .accept with msgCnt := 14 } 0x4061#16)) State.fsm = some .accept ∧
      after (step (cmd { at_ .accept with msgCnt := 15 } 0x4061#16)) State.fsm = some .rinit ∧
      (cmd { at_ .accept with msgCnt := 16 } 0x4061#16).fetch = .run (.msgWr 0x61#8) ∧
      after (step (cmd (at_ .accept) 0x5000#16)) State.fsm = some .rinit ∧
      after (step (cmd { at_ .accept with padMode := .x923, msgCnt := 1 } 0x5000#16)) State.fsm = some .rinit ∧
      after (step (cmd { at_ .accept with padMode := .x923 } 0x5000#16)) State.fsm = some .idle ∧
      after (step (cmd (at_ .accept) 0x7000#16)) State.fsm = some .accept := by decide

theorem witness_ControllerTransitions_output :
    after (step { at_ .echo with outq := [entry, entry] }) State.fsm = some .echo ∧
      after (step { at_ .echo with idx := 30 }) State.fsm = some .echo ∧
      after (step { at_ .echo with idx := 31 }) State.fsm = some .kexp ∧
      after (step { at_ .emit with outq := [entry, entry], idx := 31 }) State.fsm = some .emit ∧
      after (step { at_ .emit with idx := 30 }) State.fsm = some .emit ∧
      after (step { at_ .emit with idx := 31 }) State.fsm = some .accept ∧
      after (step { at_ .emit with idx := 31, last := true }) State.fsm = some .idle := by decide

theorem witness_ControllerTransitions_rounds :
    after (step { at_ .kexp with kxI := 42 }) State.fsm = some .kexp ∧
      after (step { at_ .kexp with kxI := 43 }) State.fsm = some .accept ∧
      after (step (at_ .rinit)) State.fsm = some .rsub ∧ after (step (at_ .rsub)) State.fsm = some .rshift ∧
      after (step { at_ .rshift with round := 9 }) State.fsm = some .rmix ∧
      after (step { at_ .rshift with round := 10 }) State.fsm = some .radd ∧
      after (step (at_ .rmix)) State.fsm = some .radd ∧
      after (step { at_ .radd with round := 9 }) State.fsm = some .rsub ∧
      after (step { at_ .radd with round := 10 }) State.fsm = some .emit ∧
      after (step { at_ .radd with host := [{ idleCycle with rst := true }] }) State.fsm = some .idle := by decide

theorem witness_BlockRunComputesCipher :
    let s := { at_ .rinit with host := [popCycle] }
    s.fsm = .rinit ∧ ∀ c ∈ s.host, c.rst = false := by decide

theorem witness_EmitRunPutsOutBlock :
    let s := { at_ .emit with outq := [entry], outDepth := 33 }
    s.fsm = .emit ∧ s.idx = 0 ∧ (∀ c ∈ s.host, c.rst = false) ∧ s.outq.length + 32 ≤ s.outDepth := by decide

theorem witness_StartRunEchoesAndExpandsKey :
    let s := { base with outDepth := 32, host := [wordCycle (some 0x3100#16)] }
    s.fsm = .idle ∧ s.keyLen = 16 ∧ (∀ c ∈ s.host, c.rst = false) ∧ s.fetch = .run (.start .x923) ∧
      s.outq.length + 32 ≤ s.outDepth := by decide

/-- A call with the message "a", through a FIFO of one entry. -/
theorem witness_EncryptionCallOutput :
    let s := { base with
      outDepth := 1
      host := [streamCycle 0x3000#16, streamCycle 0x4061#16, streamCycle 0x5000#16] ++ List.replicate 200 popCycle }
    s.fsm = .idle ∧ s.keyLen = 16 ∧ 1 ≤ s.outDepth ∧ s.outq = [] ∧
      s.host = (((Instr.start .pkcs7 :: [0x61#8].map Instr.msgWr) ++ [Instr.msgEnd]).map
        fun i => streamCycle (encode i).bits) ++ List.replicate 200 popCycle :=
  ⟨rfl, rfl, by decide, rfl, rfl⟩

/-! ### Witnesses: output channel and errors -/

theorem witness_HexDigitsAreLowercase :
    hexDigit 0x0#4 = 0x30#8 ∧ hexDigit 0x9#4 = 0x39#8 ∧ hexDigit 0xa#4 = 0x61#8 ∧ hexDigit 0xf#4 = 0x66#8 := by decide

/-- A step that pushes and one that does not. -/
theorem witness_OutputStreamOnlyGrows :
    base.ports.rst = false ∧ after (step base) State.stream = some base.stream ∧
      (at_ .echo).ports.rst = false ∧ after (step (at_ .echo)) (fun t => t.stream.length) = some 1 := by decide

/-- Room (one entry of two) and no room, with a pop in the same cycle. -/
theorem witness_PushAndPopInOneCycle :
    let s := { at_ .echo with outq := [entry], host := [popCycle] }
    let s' := { at_ .emit with outq := [entry, entry], host := [popCycle] }
    (s.fsm = .echo ∧ s.ports.rst = false ∧ s.ports.outReady = true ∧ s.outq = entry :: [] ∧
        s.outq.length < s.outDepth) ∧
      (s'.fsm = .emit ∧ s'.ports.rst = false ∧ s'.ports.outReady = true ∧ s'.outq = entry :: [entry] ∧
        s'.outDepth ≤ s'.outq.length) := by decide

/-- Two engines alike with full and empty FIFOs, both taking a micro-step that pushes nothing. -/
theorem witness_OutputIndependentOfDepthAndPops_full :
    let s := { at_ .rsub with outq := [entry, entry] }
    let s' := { at_ .rsub with outDepth := 1, host := [popCycle] }
    s.SameEngine s' ∧ s.ports.rst = false ∧ s'.ports.rst = false ∧ s.ports.cmd = s'.ports.cmd ∧
      (s.fsm = .echo ∨ s.fsm = .emit → s.outq.length < s.outDepth ∧ s'.outq.length < s'.outDepth) ∧
      (∃ t, step s = .next t) ∧ ∃ t, step s' = .next t := by
  refine ⟨⟨rfl, rfl, rfl, rfl, rfl, rfl, rfl, rfl, rfl, rfl, rfl, rfl, rfl, rfl, rfl, rfl, rfl, rfl⟩,
    by decide, by decide, by decide, by decide, ⟨_, rfl⟩, ⟨_, rfl⟩⟩

/-- Two engines alike with different FIFOs, both taking a step; and a held one. -/
theorem witness_OutputIndependentOfDepthAndPops :
    let s := at_ .echo
    let s' := { at_ .echo with outDepth := 7, outq := [entry], host := [popCycle] }
    let h := { at_ .emit with outq := [entry, entry] }
    s.SameEngine s' ∧ s.ports.rst = false ∧ s'.ports.rst = false ∧ s.ports.cmd = s'.ports.cmd ∧
      s.outq.length < s.outDepth ∧ s'.outq.length < s'.outDepth ∧ (∃ t, step s = .next t) ∧ (∃ t, step s' = .next t) ∧
      h.fsm = .emit ∧ h.ports.rst = false ∧ h.outDepth ≤ h.outq.length ∧ ∃ t, step h = .next t := by
  refine ⟨⟨rfl, rfl, rfl, rfl, rfl, rfl, rfl, rfl, rfl, rfl, rfl, rfl, rfl, rfl, rfl, rfl, rfl, rfl⟩,
    by decide, by decide, by decide, by decide, by decide, ⟨_, rfl⟩, ⟨_, rfl⟩, by decide, by decide, by decide, ⟨_, rfl⟩⟩

theorem witness_HandshakeAndErrinfoOutputs :
    ({ base with outq := [entry] } : State).outq = entry :: [] ∧ base.ports.rst = false ∧ base.outValid = false := by
  decide

/-- A START turned away for its key, and an illegal word, with the flags clear and set before. -/
theorem witness_ErrorFlagsAreSticky :
    let s := { base with keyLen := 15, host := [wordCycle (some 0x3000#16)] }
    let s' := { base with errKeyLen := true, host := [wordCycle (some 0x7000#16)] }
    let s'' := { s' with errCmd := true, errWord := 0x8000#16 }
    (s.ports.rst = false ∧ s.fetch ≠ .run .errClr ∧ s.errKeyLen = false ∧ after (step s) State.errKeyLen = some true) ∧
      (s'.ports.rst = false ∧ s'.fetch ≠ .run .errClr ∧ s'.errKeyLen = true ∧ s'.errCmd = false ∧
        after (step s') State.errWord = some 0x7000#16) ∧
      (s''.fetch ≠ .run .errClr ∧ s''.errCmd = true ∧ after (step s'') State.errWord = some 0x8000#16) := by
  decide

/-- `done` set by EMIT and by MSG_END, cleared by START and by reset. -/
theorem witness_DoneMarksEndOfCall :
    let e := { at_ .emit with idx := 31, last := true }
    let m := { at_ .accept with padMode := .x923, host := [wordCycle (some 0x5000#16)] }
    let c := { base with done := true, host := [wordCycle (some 0x3000#16)] }
    let r := { base with done := true, host := [{ idleCycle with rst := true }] }
    (e.done = false ∧ after (step e) State.done = some true) ∧
      (m.done = false ∧ after (step m) State.done = some true) ∧
      (c.done = true ∧ after (step c) State.done = some false) ∧
      (r.done = true ∧ after (step r) State.done = some false) := by decide

/-- A reset in a busy cycle with a held word and a due pop. -/
theorem witness_ResetCycleLoadsResetValues :
    let s := { at_ .echo with
      outq := [entry]
      host := [{ rst := true, cmd := some 0x5000#16, hold := true, outReady := true }] }
    s.ports.rst = true := by decide

/-! ### Witnesses: invariants -/

theorem witness_InvariantKeptByStep_idle : base.Inv ∧ ∃ t, step base = .next t := by
  refine ⟨?_, _, rfl⟩
  constructor <;> decide

/-- In KEXP at the last word. -/
theorem witness_InvariantKeptByStep_kexp :
    ({ at_ .kexp with kxI := 43 } : State).Inv ∧ ∃ t, step { at_ .kexp with kxI := 43 } = .next t := by
  refine ⟨?_, _, rfl⟩
  constructor <;> decide

/-- In ACCEPT with a block one byte short and that byte on the port. -/
theorem witness_InvariantKeptByStep_accept :
    let s := { at_ .accept with msgCnt := 15, host := [wordCycle (some 0x4061#16)] }
    s.Inv ∧ ∃ t, step s = .next t := by
  refine ⟨?_, _, rfl⟩
  constructor <;> decide

/-- In EMIT at the last character of the last block. -/
theorem witness_InvariantKeptByStep_emit :
    let s := { at_ .emit with msgCnt := 16, round := 10, idx := 31, last := true }
    s.Inv ∧ ∃ t, step s = .next t := by
  refine ⟨?_, _, rfl⟩
  constructor <;> decide

/-- A state of the invariant in ECHO with the first four words in place. -/
theorem witness_ScheduleCorrectKeptByStep :
    let s := { at_ .echo with key := keyB, w := schedB, idx := 31 }
    s.Inv ∧ s.ScheduleCorrect ∧ ∃ t, step s = .next t := by
  refine ⟨?_, ?_, _, rfl⟩
  · constructor <;> decide
  · exact show ∀ i : Fin 44, i.val < 4 → schedB[i] = (expand keyB).getD i.val 0 by decide

end Sys2Proof.Tests
end

/-! PROOFS. The invariant of R50 holds at reset and every step keeps it. The clauses of `State.Inv` are sorted into
those that hold in every controller state (`State.SteadyInv`) and those of the current one (`State.InPhase`); the
second part is then one small goal per instruction, with the controller state before and after it known. -/

namespace Sys2Proof.Machine

variable {s t : State} {i : Instr}

/-! ### Written marks -/

/-- The entries below `k` count as written. -/
def WrittenBelow {n : Nat} (marks : Vector Bool n) (k : Nat) : Prop :=
  ∀ j : Fin n, j.val < k → marks[j] = true

theorem writtenBelow_zero {n : Nat} (marks : Vector Bool n) : WrittenBelow marks 0 :=
  fun _ hj => absurd hj (Nat.not_lt_zero _)

theorem WrittenBelow.mono {n k m : Nat} {marks : Vector Bool n} (h : WrittenBelow marks m) (hkm : k ≤ m) :
    WrittenBelow marks k :=
  fun j hj => h j (Nat.lt_of_lt_of_le hj hkm)

/-- Writing the first entry that may still be unwritten moves the bound up by one. -/
theorem WrittenBelow.set_next {n k : Nat} {marks : Vector Bool n} (h : WrittenBelow marks k) (hk : k < n) :
    WrittenBelow (marks.set k true) (k + 1) := by
  intro j hj
  rw [Fin.getElem_fin, Vector.getElem_set]
  split
  · rfl
  · exact h j (by omega)

/-- All entries count as written when the bound is the size. -/
theorem writtenBelow_size_iff {n : Nat} {marks : Vector Bool n} :
    WrittenBelow marks n ↔ ∀ j : Fin n, marks[j] = true :=
  ⟨fun h j => h j j.isLt, fun h j _ => h j⟩

theorem writtenBelow_padTailPkcs7 (h : WrittenBelow s.stWr s.msgCnt.val) : WrittenBelow s.padTailPkcs7.stWr 16 := by
  intro j _
  by_cases hj : j.val < s.msgCnt.val
  · simpa [hj] using h j hj
  · simp [hj]

theorem writtenBelow_padTailX923 (h : WrittenBelow s.stWr s.msgCnt.val) : WrittenBelow s.padTailX923.stWr 16 := by
  intro j _
  by_cases hj : j.val < s.msgCnt.val
  · simpa [hj] using .inr (h j hj)
  · simp [hj]

theorem writtenBelow_startCall (m : PadMode) : WrittenBelow (s.startCall m).wWr 4 :=
  ((((writtenBelow_zero s.wWr).set_next (by decide)).set_next (by decide)).set_next (by decide)).set_next (by decide)

/-! ### The invariant by controller state -/

/-- The clauses of the invariant that hold in every controller state. -/
structure State.SteadyInv (s : State) : Prop where
  depth_pos : 1 ≤ s.outDepth
  outq_bound : s.outq.length ≤ s.outDepth
  key_written : WrittenBelow s.keyWr s.keyLen.val
  errWord_clear : s.errCmd = false → s.errWord = 0x0000#16

/-- A call is running: the key is complete and `done` is 0 (R39, R50). -/
def State.InCall (s : State) : Prop :=
  s.keyLen = 16 ∧ s.done = false

/-- A block is in progress, with the schedule and all of the block in place (R50). -/
def State.BlockReady (s : State) : Prop :=
  s.InCall ∧ s.msgCnt = 16 ∧ WrittenBelow s.wWr 44 ∧ WrittenBelow s.stWr 16

/-- What the invariant says of `s` in controller state `f` beyond `SteadyInv` (R50). -/
def State.InPhase (s : State) : Fsm → Prop
  | .idle => s.msgCnt = 0
  | .echo => s.InCall ∧ s.msgCnt = 0 ∧ WrittenBelow s.wWr 4
  | .kexp => s.InCall ∧ s.msgCnt = 0 ∧ 4 ≤ s.kxI.val ∧ WrittenBelow s.wWr s.kxI.val
  | .accept => s.InCall ∧ s.msgCnt.val ≤ 15 ∧ WrittenBelow s.wWr 44 ∧ WrittenBelow s.stWr s.msgCnt.val
  | .rinit => s.BlockReady
  | .rsub | .rshift | .radd => s.BlockReady ∧ 1 ≤ s.round.val
  | .rmix => s.BlockReady ∧ 1 ≤ s.round.val ∧ s.round.val ≤ 9
  | .emit => s.BlockReady ∧ s.round = 10

theorem State.Inv.steadyInv (h : s.Inv) : s.SteadyInv :=
  ⟨h.depth_pos, h.outq_bound, h.key_written, h.errWord_clear⟩

theorem State.Inv.inCall (h : s.Inv) (hf : s.fsm ≠ .idle) : s.InCall :=
  ⟨h.key_complete hf, Bool.eq_false_iff.mpr fun hd => hf (h.done_idle hd)⟩

theorem Fsm.scheduleReady_of_inBlock {f : Fsm} (h : f.inBlock = true) : f.scheduleReady = true := by
  cases f <;> simp_all [Fsm.inBlock, Fsm.scheduleReady]

theorem State.Inv.blockReady (h : s.Inv) (hb : s.fsm.inBlock = true) : s.BlockReady :=
  ⟨h.inCall fun hf => by simp [hf, Fsm.inBlock] at hb, h.block_count hb,
    writtenBelow_size_iff.mpr (h.schedule_written (Fsm.scheduleReady_of_inBlock hb)),
    writtenBelow_size_iff.mpr (h.block_written hb)⟩

theorem State.Inv.inPhase (h : s.Inv) : s.InPhase s.fsm := by
  have hcall := h.inCall
  have hblock := h.blockReady
  have hround := h.round_pos
  cases hf : s.fsm <;> rw [hf] at hcall hblock hround
  case idle => exact h.early_count (by simp [hf])
  case echo => exact ⟨hcall (by decide), h.early_count (by simp [hf]), h.head_written (by simp [hf])⟩
  case kexp => exact ⟨hcall (by decide), h.early_count (by simp [hf]), h.kexp_range hf, h.kexp_written hf⟩
  case accept =>
    have hw : ∀ j : Fin 44, s.wWr[j] = true := h.schedule_written (by rw [hf]; rfl)
    exact ⟨hcall (by decide), h.accept_count hf, writtenBelow_size_iff.mpr hw, h.accept_written hf⟩
  case rinit => exact hblock rfl
  case rsub | rshift | radd => exact ⟨hblock rfl, hround (by simp)⟩
  case rmix => exact ⟨hblock rfl, hround (by simp), h.rmix_round hf⟩
  case emit => exact ⟨hblock rfl, h.emit_round hf⟩

theorem State.InPhase.blockReady {f : Fsm} (h : s.InPhase f) (hb : f.inBlock = true) : s.BlockReady := by
  cases f
  case idle | echo | kexp | accept => cases hb
  case rinit => exact h
  case rsub | rshift | rmix | radd | emit => exact h.1

theorem State.InPhase.inCall {f : Fsm} (h : s.InPhase f) (hf : f ≠ .idle) : s.InCall := by
  cases f
  case idle => exact absurd rfl hf
  case echo | kexp | accept => exact h.1
  case rinit | rsub | rshift | rmix | radd | emit => exact (h.blockReady rfl).1

theorem State.InPhase.schedule_written {f : Fsm} (h : s.InPhase f) (hr : f.scheduleReady = true) :
    WrittenBelow s.wWr 44 := by
  cases f
  case idle | echo | kexp => cases hr
  case accept =>
    obtain ⟨-, -, hw, -⟩ := h
    exact hw
  case rinit | rsub | rshift | rmix | radd | emit =>
    obtain ⟨-, -, hw, -⟩ := h.blockReady rfl
    exact hw

theorem State.InPhase.head_written {f : Fsm} (h : s.InPhase f) (hf : f ≠ .idle) : WrittenBelow s.wWr 4 := by
  cases f
  case idle => exact absurd rfl hf
  case echo =>
    obtain ⟨-, -, hw⟩ := h
    exact hw
  case kexp =>
    obtain ⟨-, -, hk, hw⟩ := h
    exact hw.mono hk
  case accept | rinit | rsub | rshift | rmix | radd | emit => exact (h.schedule_written rfl).mono (by decide)

/-- The two parts together are the invariant. -/
theorem State.inv_iff : s.Inv ↔ s.SteadyInv ∧ s.InPhase s.fsm := by
  refine ⟨fun h => ⟨h.steadyInv, h.inPhase⟩, fun ⟨hs, hp⟩ => ?_⟩
  have hin {f : Fsm} (hf : s.fsm = f) : s.InPhase f := hf ▸ hp
  constructor
  case depth_pos => exact hs.depth_pos
  case outq_bound => exact hs.outq_bound
  case key_written => exact hs.key_written
  case errWord_clear => exact hs.errWord_clear
  case key_complete =>
    intro hf
    obtain ⟨hkey, -⟩ := hp.inCall hf
    exact hkey
  case done_idle =>
    intro hd
    by_cases hf : s.fsm = .idle
    · exact hf
    · obtain ⟨-, hdone⟩ := hp.inCall hf
      rw [hdone] at hd
      cases hd
  case head_written => exact hp.head_written
  case schedule_written => exact fun hr => writtenBelow_size_iff.mp (hp.schedule_written hr)
  case block_count =>
    intro hb
    obtain ⟨-, hcnt, -, -⟩ := hp.blockReady hb
    exact hcnt
  case block_written =>
    intro hb
    obtain ⟨-, -, -, hst⟩ := hp.blockReady hb
    exact writtenBelow_size_iff.mp hst
  case early_count =>
    rintro (hf | hf | hf) <;> rw [hf] at hp
    · exact hp
    · obtain ⟨-, hcnt, -⟩ := hp
      exact hcnt
    · obtain ⟨-, hcnt, -⟩ := hp
      exact hcnt
  case kexp_range =>
    intro hf
    obtain ⟨-, -, hk, -⟩ := hin hf
    exact hk
  case kexp_written =>
    intro hf
    obtain ⟨-, -, -, hw⟩ := hin hf
    exact hw
  case accept_count =>
    intro hf
    obtain ⟨-, hcnt, -, -⟩ := hin hf
    exact hcnt
  case accept_written =>
    intro hf
    obtain ⟨-, -, -, hst⟩ := hin hf
    exact hst
  case round_pos =>
    rintro (hf | hf | hf | hf) <;> rw [hf] at hp
    · exact hp.2
    · exact hp.2
    · obtain ⟨-, hpos, -⟩ := hp
      exact hpos
    · exact hp.2
  case rmix_round =>
    intro hf
    obtain ⟨-, -, hle⟩ := hin hf
    exact hle
  case emit_round => exact fun hf => (hin hf).2

/-! ### Reset -/

/-- A state with the reset values of R49 meets the invariant, whatever `st`, `key` and `w` hold. -/
theorem State.inv_of_resetValues (hdepth : 1 ≤ s.outDepth) (houtq : s.outq = []) (hfsm : s.fsm = .idle)
    (hkey : s.keyLen = 0) (hmsg : s.msgCnt = 0) (herr : s.errWord = 0x0000#16) : s.Inv := by
  refine State.inv_iff.mpr ⟨⟨hdepth, ?_, ?_, fun _ => herr⟩, ?_⟩
  · simp [houtq]
  · rw [hkey]
    exact writtenBelow_zero _
  · rw [hfsm]
    exact hmsg

theorem State.applyReset_inv (hdepth : 1 ≤ s.outDepth) : s.applyReset.Inv := by
  refine State.inv_of_resetValues ?_ ?_ ?_ ?_ ?_ ?_ <;> simp [hdepth]

/-! ### The clauses of every controller state -/

/-- Only KEY_CLR and KEY_WR write the marks of the key and `key_len`. -/
theorem performed_key (hclr : i ≠ .keyClr) (hwr : ∀ d, i ≠ .keyWr d) :
    (performed i s).keyWr = s.keyWr ∧ (performed i s).keyLen = s.keyLen := by
  cases i
  case keyClr => exact absurd rfl hclr
  case keyWr d => exact absurd rfl (hwr d)
  all_goals
    simp only [performed]
    repeat' split
    all_goals simp

/-- Only ERR_CLR among the instructions performed writes `err_cmd` or `err_word`. -/
theorem performed_errCmd (hclr : i ≠ .errClr) :
    (performed i s).errCmd = s.errCmd ∧ (performed i s).errWord = s.errWord := by
  cases i
  case errClr => exact absurd rfl hclr
  all_goals
    simp only [performed]
    repeat' split
    all_goals simp

theorem performed_key_written (h : WrittenBelow s.keyWr s.keyLen.val) :
    WrittenBelow (performed i s).keyWr (performed i s).keyLen.val := by
  by_cases hclr : i = .keyClr
  · subst hclr
    exact writtenBelow_zero _
  by_cases hwr : ∃ d, i = .keyWr d
  · obtain ⟨d, rfl⟩ := hwr
    simp only [performed]
    split
    next hk =>
      rw [bump_val_of_lt (by omega)]
      exact h.set_next hk
    next hk => exact fun j _ => h j (by omega)
  · obtain ⟨hm, hl⟩ := performed_key (s := s) hclr (not_exists.mp hwr)
    rwa [hm, hl]

theorem performed_errWord_clear (h : s.errCmd = false → s.errWord = 0x0000#16) :
    (performed i s).errCmd = false → (performed i s).errWord = 0x0000#16 := by
  by_cases hclr : i = .errClr
  · subst hclr
    exact fun _ => rfl
  · obtain ⟨hc, hw⟩ := performed_errCmd (s := s) hclr
    rwa [hc, hw]

theorem State.SteadyInv.raise_illegalCmd (h : s.SteadyInv) (w : CmdWord) : (s.raise (.illegalCmd w)).SteadyInv :=
  ⟨h.depth_pos, h.outq_bound, h.key_written, fun hc => by simp at hc⟩

theorem State.SteadyInv.exec (h : s.SteadyInv) (he : exec i s = .next t) : t.SteadyInv := by
  obtain ⟨hdepth, -⟩ := exec_env he
  have hbound : t.outq.length ≤ t.outDepth := by
    have hb := h.outq_bound
    rw [hdepth]
    rcases exec_outq he with hq | ⟨hroom, e, hq⟩
    · rwa [hq]
    · have hlt : s.outq.length < s.outDepth := of_decide_eq_true hroom
      rw [hq, List.length_append]
      exact hlt
  rcases exec_next he with rfl | ⟨-, -, w, -, rfl⟩ | ⟨-, rfl⟩
  · exact h
  · exact h.raise_illegalCmd w
  · exact ⟨hdepth ▸ h.depth_pos, hbound, performed_key_written h.key_written,
      performed_errWord_clear h.errWord_clear⟩

/-! ### The clauses of the controller state, per instruction -/

/-- The controller states in which an instruction is performed (R86, R100). -/
def runsIn : Instr → Fsm → Prop
  | .nop, f | .errClr, f => f = .idle ∨ f = .accept
  | .keyClr, f | .keyWr _, f | .start _, f => f = .idle
  | .msgWr _, f | .msgEnd, f => f = .accept
  | .echo, f => f = .echo
  | .kexp, f => f = .kexp
  | .rinit, f => f = .rinit
  | .rsub, f => f = .rsub
  | .rshift, f => f = .rshift
  | .rmix, f => f = .rmix
  | .radd, f => f = .radd
  | .emit, f => f = .emit

theorem Fsm.eq_idle_or_accept_of_quiescent {f : Fsm} (h : f.quiescent = true) : f = .idle ∨ f = .accept := by
  cases f <;> simp_all [Fsm.quiescent]

theorem runsIn_of_legalIn {f : Fsm} (h : legalIn i f = true) : runsIn i f := by
  cases i
  case nop | errClr => exact Fsm.eq_idle_or_accept_of_quiescent h
  case keyClr | keyWr | start | msgWr | msgEnd => exact eq_of_beq h
  case echo | kexp | rinit | rsub | rshift | rmix | radd | emit => cases h

theorem runsIn_of_microOp {f : Fsm} (h : f.microOp = some i) : runsIn i f := by
  cases f
  case idle | accept => cases h
  all_goals
    cases h
    rfl

theorem runsIn_of_enabled {f : Fsm} (h : enabled i f) : runsIn i f :=
  h.elim runsIn_of_legalIn runsIn_of_microOp

/-- The state an instruction leaves meets the clauses of its controller state. -/
abbrev KeepsPhase (i : Instr) (s : State) : Prop :=
  (performed i s).InPhase (performed i s).fsm

theorem State.InPhase.at_fsm {f : Fsm} (hf : s.fsm = f) (h : s.InPhase f) : s.InPhase s.fsm := by
  rwa [hf]

theorem keepsPhase_keyClr (hf : s.fsm = .idle) (h : s.InPhase .idle) : KeepsPhase .keyClr s :=
  .at_fsm (s := performed .keyClr s) hf h

theorem keepsPhase_keyWr (d : Byte) (hf : s.fsm = .idle) (h : s.InPhase .idle) : KeepsPhase (.keyWr d) s := by
  simp only [KeepsPhase, performed]
  split
  · exact .at_fsm hf h
  · exact .at_fsm hf h

theorem keepsPhase_start (m : PadMode) (hf : s.fsm = .idle) (h : s.InPhase .idle) : KeepsPhase (.start m) s := by
  simp only [KeepsPhase, performed]
  split
  next hk => exact ⟨⟨hk, rfl⟩, rfl, writtenBelow_startCall m⟩
  next => exact .at_fsm hf h

/-- A complete block is handed over with all of it in place (R108, R109, R110). -/
theorem inPhase_beginBlock (last : Bool) (hcall : s.InCall) (hcnt : s.msgCnt = 16) (hw : WrittenBelow s.wWr 44)
    (hst : WrittenBelow s.stWr 16) : (s.beginBlock last).InPhase (s.beginBlock last).fsm :=
  ⟨hcall, hcnt, hw, hst⟩

theorem keepsPhase_msgWr (d : Byte) (hf : s.fsm = .accept) (h : s.InPhase .accept) : KeepsPhase (.msgWr d) s := by
  obtain ⟨hcall, hcnt, hw, hst⟩ := h
  have hlt : s.msgCnt.val < 16 := by omega
  have hbump : (bump s.msgCnt).val = s.msgCnt.val + 1 := bump_val_of_lt hlt
  have hst' := hst.set_next hlt
  rw [← hbump] at hst'
  simp only [KeepsPhase, performed, appendMsg_of_lt hlt]
  split
  next hfull =>
    rw [hfull] at hst'
    exact inPhase_beginBlock false hcall hfull hw hst'
  next hpart =>
    have hle : (bump s.msgCnt).val ≤ 15 := by
      have hne : (bump s.msgCnt).val ≠ 16 := fun h16 => hpart (Fin.ext h16)
      omega
    exact .at_fsm hf ⟨hcall, hle, hw, hst'⟩

theorem keepsPhase_msgEnd (h : s.InPhase .accept) : KeepsPhase .msgEnd s := by
  obtain ⟨hcall, -, hw, hst⟩ := h
  have hpkcs7 := writtenBelow_padTailPkcs7 hst
  have hx923 := writtenBelow_padTailX923 hst
  simp only [KeepsPhase, performed]
  split
  · exact inPhase_beginBlock true (by simpa [State.InCall] using hcall) rfl (by simpa using hw) hpkcs7
  · split
    next hzero => exact hzero
    next =>
      exact inPhase_beginBlock true (by simpa [State.InCall] using hcall) rfl (by simpa using hw) hx923

theorem keepsPhase_echo (hf : s.fsm = .echo) (h : s.InPhase .echo) : KeepsPhase .echo s := by
  obtain ⟨hcall, hcnt, hw⟩ := h
  simp only [KeepsPhase, performed]
  split
  · split
    · exact ⟨hcall, hcnt, Nat.le_refl 4, hw⟩
    · exact .at_fsm hf ⟨hcall, hcnt, hw⟩
  · exact .at_fsm hf ⟨hcall, hcnt, hw⟩

theorem keepsPhase_kexp (hf : s.fsm = .kexp) (h : s.InPhase .kexp) : KeepsPhase .kexp s := by
  obtain ⟨hcall, hcnt, hk, hw⟩ := h
  have hw' := hw.set_next s.kxI.isLt
  simp only [KeepsPhase, performed]
  split
  next hlast =>
    refine ⟨hcall, ?_, ?_, ?_⟩
    · simp [hcnt]
    · simpa [hlast] using hw'
    · simpa [hcnt] using writtenBelow_zero s.stWr
  next hmore =>
    have hbump : (bump s.kxI).val = s.kxI.val + 1 := bump_val_of_lt (by omega)
    exact .at_fsm hf ⟨hcall, hcnt, Nat.le_trans hk (le_bump_val _), by simpa [hbump] using hw'⟩

/-- The round micro-operations write neither the counters nor the marks that a block in progress rests on. -/
theorem State.BlockReady.performed_round (h : s.BlockReady) (hi : i ∈ [.rinit, .rsub, .rshift, .rmix, .radd]) :
    (performed i s).BlockReady := by
  simp only [State.BlockReady, State.InCall] at h ⊢
  simp only [List.mem_cons, List.not_mem_nil, or_false] at hi
  rcases hi with rfl | rfl | rfl | rfl | rfl
  · simpa [performed] using h
  · simpa [performed] using h
  · simpa [performed] using h
  · simpa [performed] using h
  · simp only [performed]
    split <;> simpa using h

theorem keepsPhase_rinit (h : s.InPhase .rinit) : KeepsPhase .rinit s :=
  ⟨State.BlockReady.performed_round h (by simp), Nat.le_refl 1⟩

theorem keepsPhase_rsub (h : s.InPhase .rsub) : KeepsPhase .rsub s := by
  obtain ⟨hblock, hpos⟩ := h
  exact ⟨hblock.performed_round (by simp), hpos⟩

theorem keepsPhase_rshift (h : s.InPhase .rshift) : KeepsPhase .rshift s := by
  obtain ⟨hblock, hpos⟩ := h
  have hblock' : (performed .rshift s).BlockReady := hblock.performed_round (by simp)
  by_cases hr : s.round.val < 10
  · exact .at_fsm (f := .rmix) (by simp [performed, hr]) ⟨hblock', hpos, Nat.le_of_lt_succ hr⟩
  · exact .at_fsm (f := .radd) (by simp [performed, hr]) ⟨hblock', hpos⟩

theorem keepsPhase_rmix (h : s.InPhase .rmix) : KeepsPhase .rmix s := by
  obtain ⟨hblock, hpos, -⟩ := h
  exact ⟨hblock.performed_round (by simp), hpos⟩

theorem keepsPhase_radd (h : s.InPhase .radd) : KeepsPhase .radd s := by
  obtain ⟨hblock, hpos⟩ := h
  have hblock' : (performed .radd s).BlockReady := hblock.performed_round (by simp)
  by_cases hr : s.round.val < 10
  · exact .at_fsm (f := .rsub) (by simp [performed, hr])
      ⟨hblock', by simpa [performed, hr] using Nat.le_trans hpos (le_bump_val s.round)⟩
  · exact .at_fsm (f := .emit) (by simp [performed, hr]) ⟨hblock', by simp [performed, hr]; omega⟩

theorem keepsPhase_emit (hf : s.fsm = .emit) (h : s.InPhase .emit) : KeepsPhase .emit s := by
  obtain ⟨⟨hcall, hcnt, hw, hst⟩, hround⟩ := h
  simp only [KeepsPhase, performed]
  split
  · split
    · split
      · exact rfl
      · exact ⟨hcall, Nat.zero_le 15, hw, writtenBelow_zero _⟩
    · exact .at_fsm hf ⟨⟨hcall, hcnt, hw, hst⟩, hround⟩
  · exact .at_fsm hf ⟨⟨hcall, hcnt, hw, hst⟩, hround⟩

theorem State.InPhase.performed (h : s.InPhase s.fsm) (he : enabled i s.fsm) : KeepsPhase i s := by
  have hrun := runsIn_of_enabled he
  cases i
  case nop | errClr => exact h
  all_goals
    have hf : s.fsm = _ := hrun
    rw [hf] at h
  case keyClr => exact keepsPhase_keyClr hf h
  case keyWr d => exact keepsPhase_keyWr d hf h
  case start m => exact keepsPhase_start m hf h
  case msgWr d => exact keepsPhase_msgWr d hf h
  case msgEnd => exact keepsPhase_msgEnd h
  case echo => exact keepsPhase_echo hf h
  case kexp => exact keepsPhase_kexp hf h
  case rinit => exact keepsPhase_rinit h
  case rsub => exact keepsPhase_rsub h
  case rshift => exact keepsPhase_rshift h
  case rmix => exact keepsPhase_rmix h
  case radd => exact keepsPhase_radd h
  case emit => exact keepsPhase_emit hf h

/-! ### The step -/

theorem State.Inv.raise_illegalCmd (h : s.Inv) (w : CmdWord) : (s.raise (.illegalCmd w)).Inv :=
  State.inv_iff.mpr ⟨h.steadyInv.raise_illegalCmd w, h.inPhase⟩

theorem State.Inv.exec (h : s.Inv) (he : exec i s = .next t) : t.Inv := by
  refine State.inv_iff.mpr ⟨h.steadyInv.exec he, ?_⟩
  rcases exec_next he with rfl | ⟨-, -, w, -, rfl⟩ | ⟨hen, rfl⟩
  · exact h.inPhase
  · exact (h.raise_illegalCmd w).inPhase
  · exact h.inPhase.performed hen

theorem State.Inv.engineStep (h : s.Inv) (he : engineStep s = .next t) : t.Inv := by
  rcases engineStep_next he with ⟨-, rfl⟩ | ⟨w, -, rfl⟩ | ⟨i, -, he⟩
  · exact h
  · exact h.raise_illegalCmd w
  · exact h.exec he

theorem State.Inv.popOut (h : s.Inv) : s.popOut.Inv :=
  State.inv_iff.mpr
    ⟨⟨h.depth_pos, Nat.le_trans (by simp) h.outq_bound, h.key_written, h.errWord_clear⟩, h.inPhase⟩

/-- The invariant does not speak of what the host will drive. -/
theorem State.Inv.with_host (h : s.Inv) (cycles : List HostCycle) : { s with host := cycles }.Inv :=
  State.inv_iff.mpr ⟨⟨h.depth_pos, h.outq_bound, h.key_written, h.errWord_clear⟩, h.inPhase⟩

theorem State.Inv.endCycle (h : t.Inv) : (s.endCycle t).Inv := by
  unfold State.endCycle
  split
  · exact h.popOut.with_host _
  · exact h.with_host _

/-- Settles O57: `State.reset` has the values of `State.inv_of_resetValues`. -/
theorem invariantHoldsAtReset : Obligations.InvariantHoldsAtReset :=
  State.inv_of_resetValues (by decide) rfl rfl rfl rfl rfl

/-- Settles O58, by the two things a step can do (`step_next`): a reset, or an engine step and the end of its cycle. -/
theorem invariantKeptByStep : Obligations.InvariantKeptByStep := by
  intro s t h hstep
  rcases step_next hstep with ⟨-, rfl⟩ | ⟨-, u, hu, rfl⟩
  · exact (State.applyReset_inv h.depth_pos).with_host _
  · exact (h.engineStep hu).endCycle

end Sys2Proof.Machine

/-! PROOFS. The decoder and the encoder undo each other, field by field (R80, R84, R86). -/

namespace Sys2Proof

variable {i j : Instr} {w : CmdWord}

/-! ### The fields of a command word -/

@[simp] theorem fieldD_cmdWord (op : BitVec 4) (m : BitVec 1) (d : Byte) : fieldD (cmdWord op m d) = d :=
  BitVec.extractLsb'_append_eq_right

@[simp] theorem fieldM_cmdWord (op : BitVec 4) (m : BitVec 1) (d : Byte) : fieldM (cmdWord op m d) = m :=
  (BitVec.extractLsb'_append_eq_of_le (Nat.le_refl 8)).trans BitVec.extractLsb'_append_eq_right

@[simp] theorem fieldRSV_cmdWord (op : BitVec 4) (m : BitVec 1) (d : Byte) : fieldRSV (cmdWord op m d) = 0#3 :=
  (BitVec.extractLsb'_append_eq_of_le (by decide)).trans
    ((BitVec.extractLsb'_append_eq_of_le (Nat.le_refl 1)).trans BitVec.extractLsb'_append_eq_right)

@[simp] theorem fieldOP_cmdWord (op : BitVec 4) (m : BitVec 1) (d : Byte) : fieldOP (cmdWord op m d) = op :=
  (BitVec.extractLsb'_append_eq_of_le (by decide)).trans
    ((BitVec.extractLsb'_append_eq_of_le (by decide)).trans BitVec.extractLsb'_append_eq_left)

/-- A word with `RSV` zero is made of its other three fields. -/
theorem cmdWord_fields (h : fieldRSV w = 0#3) : cmdWord (fieldOP w) (fieldM w) (fieldD w) = w := by
  rw [cmdWord, ← h, fieldOP, fieldRSV, fieldM, fieldD,
    BitVec.extractLsb'_append_extractLsb'_eq_extractLsb' (start₁ := 9) (len₁ := 3) rfl,
    BitVec.extractLsb'_append_extractLsb'_eq_extractLsb' (start₁ := 8) (len₁ := 1) rfl,
    BitVec.extractLsb'_append_extractLsb'_eq_extractLsb' (start₁ := 0) (len₁ := 8) rfl]
  exact BitVec.extractLsb'_eq_self

/-- The opcode from its number. -/
theorem fieldOP_eq_of_toNat {n : Nat} (h : (fieldOP w).toNat = n) : fieldOP w = BitVec.ofNat 4 n := by
  rw [← h, BitVec.ofNat_toNat, BitVec.setWidth_eq]

@[simp] theorem padModeOfBit_bitOfPadMode (m : PadMode) : padModeOfBit (bitOfPadMode m) = m := by
  cases m <;> rfl

@[simp] theorem bitOfPadMode_padModeOfBit (b : BitVec 1) : bitOfPadMode (padModeOfBit b) = b := by
  revert b; decide

theorem unusedFieldsZero_eq_ok {usesM usesD : Bool} :
    unusedFieldsZero usesM usesD w i = .ok j ↔
      fieldRSV w = 0#3 ∧ (usesM = false → fieldM w = 0#1) ∧ (usesD = false → fieldD w = 0#8) ∧ i = j := by
  unfold unusedFieldsZero
  split
  next h => simp [h]
  next hr =>
    split
    next h => simp [h]
    next hm =>
      split
      next h => simp [h]
      next hd => grind

/-! ### The round trip -/

/-- What the command decoder reads, it reads from that instruction's own word: no bit is ignored (R85). -/
theorem encode_of_decodeCmd (h : decodeCmd w = .ok i) : encode i = .cmd w := by
  unfold decodeCmd at h
  split at h
  case h_8 => cases h
  all_goals
    next hop =>
    obtain ⟨hr, hm, hd, rfl⟩ := unusedFieldsZero_eq_ok.mp h
    have hw := cmdWord_fields hr
    rw [fieldOP_eq_of_toNat hop] at hw
    simp_all [encode]

theorem decodeCmd_of_encode (h : encode i = .cmd w) : decodeCmd w = .ok i := by
  cases i
  case echo | kexp | rinit | rsub | rshift | rmix | radd | emit => cases h
  all_goals
    cases h
    simp [decodeCmd, unusedFieldsZero]

theorem decodeMicro_of_encode {c : BitVec 4} (h : encode i = .fsm c) : decodeMicro c = .ok i := by
  cases i
  case nop | keyClr | keyWr | start | msgWr | msgEnd | errClr => cases h
  all_goals
    cases h
    rfl

end Sys2Proof

/-! PROOFS. What a fetch says of the controller state and the command port (R30), and, said once, everything an engine
step can do (`engineStep_cases`): the flags, the key schedule and `done` are then read off it. -/

namespace Sys2Proof.Machine

variable {s t : State} {i : Instr} {w : CmdWord}

/-! ### What a fetch says -/

theorem Fsm.quiescent_of_microOp_eq_none {f : Fsm} (h : f.microOp = none) : f.quiescent = true := by
  cases f
  case idle | accept => rfl
  all_goals cases h

/-- A fetched instruction is the micro-operation of the controller state, or the command whose word is on the port of a
quiescent engine (R30, R86). -/
theorem fetch_run (h : s.fetch = .run i) :
    s.fsm.microOp = some i ∨ (s.fsm.quiescent = true ∧ ∃ w, s.ports.cmd = some w ∧ encode i = .cmd w) := by
  cases hm : s.fsm.microOp with
  | some j =>
    rw [fetch_of_micro hm] at h
    cases h
    exact .inl rfl
  | none =>
    have hq := Fsm.quiescent_of_microOp_eq_none hm
    rw [fetch_of_quiescent hq] at h
    split at h
    · cases h
    next w hw =>
      split at h
      next j hd =>
        cases h
        exact .inr ⟨hq, w, hw, encode_of_decodeCmd hd⟩
      · cases h

/-- A word is refused as undecodable only on the port of a quiescent engine (R30, R85). -/
theorem fetch_illegal (h : s.fetch = .illegal w) : s.fsm.quiescent = true ∧ s.ports.cmd = some w := by
  cases hm : s.fsm.microOp with
  | some j =>
    rw [fetch_of_micro hm] at h
    cases h
  | none =>
    have hq := Fsm.quiescent_of_microOp_eq_none hm
    rw [fetch_of_quiescent hq] at h
    split at h
    · cases h
    next w' hw =>
      split at h
      · cases h
      · cases h
        exact ⟨hq, hw⟩

/-- A micro-operation is fetched only in the controller state that selects it (R86). -/
theorem microOp_of_fetch (h : s.fetch = .run i) (hi : i.isCommand = false) : s.fsm.microOp = some i := by
  rcases fetch_run h with hm | ⟨-, w, -, hw⟩
  · exact hm
  · cases i
    case echo | kexp | rinit | rsub | rshift | rmix | radd | emit => cases hw
    all_goals cases hi

/-! ### What a step can do -/

/-- Everything the engine can do in a cycle without reset: nothing, record the illegal word a quiescent engine accepts,
or perform the fetched instruction where it is enabled (R85, R100, R180). -/
theorem engineStep_cases (h : engineStep s = .next t) :
    t = s ∨
      (s.fsm.quiescent = true ∧ ∃ w, s.ports.cmd = some w ∧ t = s.raise (.illegalCmd w)) ∨
      ∃ i, s.fetch = .run i ∧ enabled i s.fsm ∧ t = performed i s := by
  rcases engineStep_next h with ⟨-, rfl⟩ | ⟨w, hf, rfl⟩ | ⟨i, hf, he⟩
  · exact .inl rfl
  · obtain ⟨hq, hw⟩ := fetch_illegal hf
    exact .inr (.inl ⟨hq, w, hw, rfl⟩)
  · rcases exec_next he with rfl | ⟨hq, -, w, hw, rfl⟩ | ⟨hen, rfl⟩
    · exact .inl rfl
    · rcases fetch_run hf with hm | ⟨-, w', hport, hw'⟩
      · rw [microOp_of_quiescent hq] at hm
        cases hm
      · rw [hw] at hw'
        cases hw'
        exact .inr (.inl ⟨hq, w, hport, rfl⟩)
    · exact .inr (.inr ⟨i, hf, hen, rfl⟩)

/-- A step without reset is an engine step and the end of its cycle. -/
theorem step_next_of_noReset (hr : s.ports.rst = false) (h : step s = .next t) :
    ∃ u, engineStep s = .next u ∧ t = s.endCycle u := by
  rw [step_of_noReset hr] at h
  exact onNext_next h

theorem step_isNext (s : State) : ∃ t, step s = .next t := by
  cases hr : s.ports.rst
  · have he : ∃ u, engineStep s = .next u := by
      unfold engineStep
      split
      · exact ⟨_, rfl⟩
      · exact ⟨_, rfl⟩
      · exact exec_isNext _ s
    obtain ⟨u, hu⟩ := he
    rw [step_of_noReset hr, hu]
    exact ⟨_, rfl⟩
  · exact ⟨_, step_of_reset hr⟩

/-! ### The registers the end of a cycle leaves alone -/

@[simp] theorem endCycle_key (s t : State) : (s.endCycle t).key = t.key := by
  unfold State.endCycle; split <;> rfl
@[simp] theorem endCycle_w (s t : State) : (s.endCycle t).w = t.w := by
  unfold State.endCycle; split <;> rfl
@[simp] theorem endCycle_fsm (s t : State) : (s.endCycle t).fsm = t.fsm := by
  unfold State.endCycle; split <;> rfl
@[simp] theorem endCycle_kxI (s t : State) : (s.endCycle t).kxI = t.kxI := by
  unfold State.endCycle; split <;> rfl
@[simp] theorem endCycle_done (s t : State) : (s.endCycle t).done = t.done := by
  unfold State.endCycle; split <;> rfl
@[simp] theorem endCycle_errKeyLen (s t : State) : (s.endCycle t).errKeyLen = t.errKeyLen := by
  unfold State.endCycle; split <;> rfl
@[simp] theorem endCycle_errCmd (s t : State) : (s.endCycle t).errCmd = t.errCmd := by
  unfold State.endCycle; split <;> rfl
@[simp] theorem endCycle_errWord (s t : State) : (s.endCycle t).errWord = t.errWord := by
  unfold State.endCycle; split <;> rfl

/-! ### An enabled instruction is performed -/

theorem Fsm.quiescent_of_legalIn {f : Fsm} (h : legalIn i f = true) : f.quiescent = true := by
  cases i
  case nop | errClr => exact h
  case keyClr | keyWr | start | msgWr | msgEnd =>
    rw [eq_of_beq h]
    rfl
  case echo | kexp | rinit | rsub | rshift | rmix | radd | emit => cases h

theorem Fsm.isCommand_of_microOp {f : Fsm} (h : f.microOp = some i) : i.isCommand = false := by
  cases f
  case idle | accept => cases h
  all_goals
    cases h
    rfl

/-- Where an instruction is enabled, `exec` performs it: the converse of the third case of `exec_next`. -/
theorem exec_of_enabled (h : enabled i s.fsm) : exec i s = .next (performed i s) := by
  have hcmd (hi : i.isCommand = true) : s.fsm.quiescent = true ∧ legalIn i s.fsm = true := by
    rcases h with hl | hm
    · exact ⟨Fsm.quiescent_of_legalIn hl, hl⟩
    · rw [Fsm.isCommand_of_microOp hm] at hi
      cases hi
  have hrun := runsIn_of_enabled h
  cases i
  case echo | kexp | rinit | rsub | rshift | rmix | radd | emit => exact microStep_of_eq hrun
  case msgEnd =>
    obtain ⟨hq, hl⟩ := hcmd rfl
    refine (accept_of_legal hq hl).trans ?_
    rw [performed]
    cases s.padMode <;> rfl
  all_goals
    obtain ⟨hq, hl⟩ := hcmd rfl
    exact accept_of_legal hq hl

end Sys2Proof.Machine

/-! PROOFS. The key schedule of a call stays correct: `expand` obeys its recurrence (R144), START and KEXP write the
next words of it (R105, R146), and no other instruction writes `key` or `w` during a call (R147). -/

namespace Sys2Proof.Machine

variable {s t : State} {i : Instr} {key : Block} {w : Schedule}

/-! ### The recurrence of `expand` -/

/-- Appending words leaves those before them. -/
theorem getD_append_of_lt {k : Nat} {ws vs : List Word} (hk : k < ws.length) :
    (ws ++ vs).getD k 0 = ws.getD k 0 := by
  rw [List.getD_eq_getElem?_getD, List.getD_eq_getElem?_getD, List.getElem?_append_left hk]

theorem getD_expandMore_of_lt {n k : Nat} {ws : List Word} (hk : k < ws.length) :
    (expandMore n ws).getD k 0 = ws.getD k 0 := by
  induction n generalizing ws with
  | zero => rfl
  | succ n ih =>
    rw [expandMore, ih (by rw [List.length_append]; omega), getD_append_of_lt hk]

/-- Every word `expandMore` appends is the schedule word of the words one and four places before it. -/
theorem getD_expandMore_step {n k : Nat} {ws : List Word} (h4 : 4 ≤ ws.length) (hk : ws.length ≤ k)
    (hkn : k < ws.length + n) :
    (expandMore n ws).getD k 0 =
      scheduleWord k ((expandMore n ws).getD (k - 1) 0) ((expandMore n ws).getD (k - 4) 0) := by
  induction n generalizing ws with
  | zero => omega
  | succ n ih =>
    rw [expandMore]
    rcases Nat.eq_or_lt_of_le hk with rfl | hlt
    · have hlen (x : Word) : (ws ++ [x]).length = ws.length + 1 := by simp
      rw [getD_expandMore_of_lt (by rw [hlen]; omega), getD_expandMore_of_lt (by rw [hlen]; omega),
        getD_expandMore_of_lt (by rw [hlen]; omega), getD_append_of_lt (k := ws.length - 1) (by omega),
        getD_append_of_lt (k := ws.length - 4) (by omega)]
      simp
    · exact ih (by simp; omega) (by simp; omega) (by simp; omega)

theorem expand_head (key : Block) (c : Fin 4) : (expand key).getD c.val 0 = keyWord key c := by
  rw [expand, getD_expandMore_of_lt c.isLt]
  match c with
  | 0 | 1 | 2 | 3 => rfl

theorem expand_step (key : Block) {k : Nat} (h4 : 4 ≤ k) (hk : k < 44) :
    (expand key).getD k 0 = scheduleWord k ((expand key).getD (k - 1) 0) ((expand key).getD (k - 4) 0) :=
  getD_expandMore_step (Nat.le_refl 4) h4 hk

/-! ### The words in place -/

/-- The first `k` words of a register file are those of `expand(key)`. -/
def MatchesExpand (key : Block) (w : Schedule) (k : Nat) : Prop :=
  ∀ j : Fin 44, j.val < k → w[j] = (expand key).getD j.val 0

theorem State.scheduleCorrect_iff : s.ScheduleCorrect ↔ MatchesExpand s.key s.w (s.fsm.wordsDone s.kxI.val) :=
  Iff.rfl

theorem matchesExpand_zero (key : Block) (w : Schedule) : MatchesExpand key w 0 :=
  fun _ hj => absurd hj (Nat.not_lt_zero _)

theorem MatchesExpand.mono {k m : Nat} (h : MatchesExpand key w m) (hkm : k ≤ m) : MatchesExpand key w k :=
  fun j hj => h j (Nat.lt_of_lt_of_le hj hkm)

/-- Writing the next word of `expand(key)` puts one more word in place. -/
theorem MatchesExpand.set_next {k : Nat} {v : Word} (h : MatchesExpand key w k) (hk : k < 44)
    (hv : v = (expand key).getD k 0) : MatchesExpand key (w.set k v) (k + 1) := by
  intro j hj
  rw [Fin.getElem_fin, Vector.getElem_set]
  split
  next hkj => rw [hv, hkj]
  · exact h j (by omega)

/-- What the recurrence reads `d` places before `w[kx_i]` is the word of `expand(key)` there. -/
theorem MatchesExpand.wordBefore {k : Fin 44} {d : Nat} (h : MatchesExpand key w k.val) (hd : 0 < d)
    (hdk : d ≤ k.val) : wordBefore w k d = (expand key).getD (k.val - d) 0 := by
  rw [wordBefore_of_le hdk]
  exact h ⟨k.val - d, by omega⟩ (show k.val - d < k.val by omega)

/-- START puts the first four words in place (R105). -/
theorem matchesExpand_startCall (s : State) (m : PadMode) : MatchesExpand s.key (s.startCall m).w 4 :=
  ((((matchesExpand_zero s.key s.w).set_next (by decide) (expand_head s.key 0).symm).set_next (by decide)
    (expand_head s.key 1).symm).set_next (by decide) (expand_head s.key 2).symm).set_next (by decide)
    (expand_head s.key 3).symm

/-- KEXP puts word `kx_i` in place (R146). -/
theorem MatchesExpand.set_kexp {k : Fin 44} (h : MatchesExpand key w k.val) (hk : 4 ≤ k.val) :
    MatchesExpand key (w.set k (scheduleWord k.val (Machine.wordBefore w k 1) (Machine.wordBefore w k 4)))
      (k.val + 1) := by
  refine h.set_next k.isLt ?_
  rw [expand_step key hk k.isLt, h.wordBefore (by decide) (by omega), h.wordBefore (by decide) hk]

/-! ### The instructions -/

/-- Only KEY_WR, START and KEXP write `key` or `w`. -/
theorem performed_schedule (hwr : ∀ d, i ≠ .keyWr d) (hst : ∀ m, i ≠ .start m) (hkx : i ≠ .kexp) :
    (performed i s).key = s.key ∧ (performed i s).w = s.w := by
  cases i
  case keyWr d => exact absurd rfl (hwr d)
  case start m => exact absurd rfl (hst m)
  case kexp => exact absurd rfl hkx
  all_goals
    simp only [performed]
    repeat' split
    all_goals simp

/-- Only START and KEXP call for more words than were in place: ECHO hands KEXP the four it has, and the instructions of
a block keep all 44 until the call ends. -/
theorem performed_wordsDone_le (hen : enabled i s.fsm) (hst : ∀ m, i ≠ .start m) (hkx : i ≠ .kexp) :
    (performed i s).fsm.wordsDone (performed i s).kxI.val ≤ s.fsm.wordsDone s.kxI.val := by
  have hrun := runsIn_of_enabled hen
  cases i
  case start m => exact absurd rfl (hst m)
  case kexp => exact absurd rfl hkx
  case nop | errClr | keyClr => exact Nat.le_refl _
  case echo =>
    have hf : s.fsm = .echo := hrun
    simp only [performed]
    split
    · split
      · exact Nat.le_of_eq (by rw [hf]; rfl)
      · exact Nat.le_refl _
    · exact Nat.le_refl _
  all_goals
    have hf : s.fsm = _ := hrun
    simp only [performed, hf]
    repeat' split
    all_goals simp [hf, Fsm.wordsDone]

theorem State.ScheduleCorrect.performed_start (h : s.ScheduleCorrect) (m : PadMode) :
    (performed (.start m) s).ScheduleCorrect := by
  rw [performed]
  split
  · exact matchesExpand_startCall s m
  · exact h

/-- In KEXP, word `kx_i` is added to the words before it; the last one completes the schedule. -/
theorem State.ScheduleCorrect.performed_kexp (h : s.ScheduleCorrect) (hf : s.fsm = .kexp) (hk : 4 ≤ s.kxI.val) :
    (performed .kexp s).ScheduleCorrect := by
  rw [State.scheduleCorrect_iff, hf] at h
  have hnext := MatchesExpand.set_kexp h hk
  simp only [performed]
  split
  next hlast => exact hnext.mono (by simp [Fsm.wordsDone, hlast])
  next hmore =>
    have hbump : (bump s.kxI).val = s.kxI.val + 1 := bump_val_of_lt (by omega)
    exact hnext.mono (by simp [hf, Fsm.wordsDone, hbump])

theorem State.ScheduleCorrect.performed (h : s.ScheduleCorrect) (hinv : s.Inv) (hen : enabled i s.fsm) :
    (performed i s).ScheduleCorrect := by
  have hrun := runsIn_of_enabled hen
  by_cases hwr : ∃ d, i = .keyWr d
  · obtain ⟨d, rfl⟩ := hwr
    have hle := performed_wordsDone_le hen (by simp) (by simp)
    rw [show s.fsm = .idle from hrun] at hle
    exact (matchesExpand_zero _ _).mono hle
  by_cases hst : ∃ m, i = .start m
  · obtain ⟨m, rfl⟩ := hst
    exact h.performed_start m
  by_cases hkx : i = .kexp
  · subst hkx
    exact h.performed_kexp hrun (hinv.kexp_range hrun)
  · obtain ⟨hkey, hw⟩ := performed_schedule (s := s) (not_exists.mp hwr) (not_exists.mp hst) hkx
    rw [State.scheduleCorrect_iff, hkey, hw]
    exact MatchesExpand.mono h (performed_wordsDone_le hen (not_exists.mp hst) hkx)

theorem State.ScheduleCorrect.engineStep (h : s.ScheduleCorrect) (hinv : s.Inv) (he : engineStep s = .next t) :
    t.ScheduleCorrect := by
  rcases engineStep_cases he with rfl | ⟨-, w, -, rfl⟩ | ⟨i, -, hen, rfl⟩
  · exact h
  · exact h
  · exact h.performed hinv hen

theorem State.ScheduleCorrect.endCycle (h : t.ScheduleCorrect) : (s.endCycle t).ScheduleCorrect := by
  rw [State.scheduleCorrect_iff, endCycle_key, endCycle_w, endCycle_fsm, endCycle_kxI]
  exact h

/-- Settles O59: a reset leaves no word in place to speak of, and an engine step keeps the words in place correct. -/
theorem scheduleCorrectKeptByStep : Obligations.ScheduleCorrectKeptByStep := by
  intro s t hinv h hstep
  rcases step_next hstep with ⟨-, rfl⟩ | ⟨-, u, hu, rfl⟩
  · exact matchesExpand_zero _ _
  · exact (h.engineStep hinv hu).endCycle

end Sys2Proof.Machine

/-! PROOFS. What a step leaves of the flags and the ports: a placed instruction is fetched, a busy engine keeps a held
word pending, the error flags are sticky, `done` marks the end of a call, and no step stops (R30, R39 to R42, R51). -/

namespace Sys2Proof.Machine

variable {s t : State} {i : Instr} {w : CmdWord}

/-! ### A placed instruction -/

theorem decodeTableWord_cmd (w : CmdWord) : decodeTableWord 16 w.toNat = (decodeCmd w).toOption := by
  simp [decodeTableWord, w.isLt]

theorem decodeTableWord_fsm (c : BitVec 4) : decodeTableWord 8 c.toNat = (decodeMicro c).toOption := by
  simp [decodeTableWord, c.isLt]

theorem withFetchWord_cmd (s : State) (w : CmdWord) : s.withFetchWord 16 w.toNat = s.presentCommand w := by
  simp [State.withFetchWord]

theorem withFetchWord_fsm (s : State) (c : BitVec 4) : s.withFetchWord 8 c.toNat = s.selectMicro c := by
  simp [State.withFetchWord]

/-- A presented word is before a quiescent engine, which decodes it. -/
theorem fetch_presentCommand (s : State) (h : decodeCmd w = .ok i) : (s.presentCommand w).fetch = .run i := by
  have hq : (s.presentCommand w).fsm.quiescent = true := by
    simp only [State.presentCommand]
    split
    next hq => exact hq
    next => rfl
  have hport : (s.presentCommand w).ports.cmd = some w := rfl
  simp [fetch_of_quiescent hq, hport, h]

theorem selectMicro_code (s : State) (f : Fsm) :
    s.selectMicro f.code = { s with fsm := f, host := wordCycle none :: s.host } := by
  simp [State.selectMicro]

/-- The code of a micro-operation is the code of the controller state that selects it (R86). -/
theorem exists_fsm_of_encode {c : BitVec 4} (h : encode i = .fsm c) : ∃ f : Fsm, f.microOp = some i ∧ f.code = c := by
  cases i
  case nop | keyClr | keyWr | start | msgWr | msgEnd | errClr => cases h
  case echo => exact ⟨.echo, rfl, Encoded.fsm.inj h⟩
  case kexp => exact ⟨.kexp, rfl, Encoded.fsm.inj h⟩
  case rinit => exact ⟨.rinit, rfl, Encoded.fsm.inj h⟩
  case rsub => exact ⟨.rsub, rfl, Encoded.fsm.inj h⟩
  case rshift => exact ⟨.rshift, rfl, Encoded.fsm.inj h⟩
  case rmix => exact ⟨.rmix, rfl, Encoded.fsm.inj h⟩
  case radd => exact ⟨.radd, rfl, Encoded.fsm.inj h⟩
  case emit => exact ⟨.emit, rfl, Encoded.fsm.inj h⟩

/-- Settles O9: a command through the port of a quiescent engine, a micro-operation through its controller state. -/
theorem placedInstructionIsFetched : Obligations.PlacedInstructionIsFetched := by
  intro s i
  constructor
  · intro w hw
    have hd := decodeCmd_of_encode hw
    rw [withFetchWord_cmd, decodeTableWord_cmd, hd]
    exact ⟨fetch_presentCommand s hd, rfl, rfl⟩
  · intro c hc
    have hd := decodeMicro_of_encode hc
    obtain ⟨f, hf, rfl⟩ := exists_fsm_of_encode hc
    rw [withFetchWord_fsm, selectMicro_code, decodeTableWord_fsm, hd]
    exact ⟨fetch_of_micro hf, rfl, rfl⟩

/-! ### A busy engine -/

theorem Fsm.quiescent_eq_false {f : Fsm} (hi : f ≠ .idle) (ha : f ≠ .accept) : f.quiescent = false :=
  Bool.eq_false_iff.mpr fun hq => (Fsm.eq_idle_or_accept_of_quiescent hq).elim hi ha

theorem exec_command_of_busy (hw : encode i = .cmd w) (hq : s.fsm.quiescent = false) : exec i s = .next s := by
  cases i
  case echo | kexp | rinit | rsub | rshift | rmix | radd | emit => cases hw
  all_goals exact accept_of_busy hq

/-- A word the host holds before a busy engine is on the ports again after the cycle (R260). -/
theorem ports_endCycle_of_busy (hq : s.fsm.quiescent = false) (hr : s.ports.rst = false)
    (hw : s.ports.cmd = some w) (hh : s.ports.hold = true) : (s.endCycle t).ports = s.ports := by
  have hhost : (s.endCycle t).host = { s.ports with rst := false } :: s.host.tail := by
    simp [State.hostAfter, State.cmdReady, hq, hw, hh]
  rw [State.ports, hhost, List.headD_cons, ← hr]

/-- A busy engine records no command error: no word is accepted, and no micro-operation writes the flags (R263). -/
theorem engineStep_errCmd_of_busy (hq : s.fsm.quiescent = false) (h : engineStep s = .next t) :
    t.errCmd = s.errCmd ∧ t.errWord = s.errWord := by
  rcases engineStep_cases h with rfl | ⟨hq', -⟩ | ⟨i, -, hen, rfl⟩
  · exact ⟨rfl, rfl⟩
  · rw [hq] at hq'
    cases hq'
  · refine performed_errCmd ?_
    rintro rfl
    rcases runsIn_of_enabled hen with hf | hf <;> rw [hf] at hq <;> cases hq

/-- Settles O11: a command is not accepted there, and the engine step is a micro-operation. -/
theorem busyEngineLeavesCommandPending : Obligations.BusyEngineLeavesCommandPending := by
  constructor
  · intro s i w hw hi ha
    exact exec_command_of_busy hw (Fsm.quiescent_eq_false hi ha)
  · intro s t w hi ha hr hw hh hstep
    have hq := Fsm.quiescent_eq_false hi ha
    obtain ⟨u, hu, rfl⟩ := step_next_of_noReset hr hstep
    rw [endCycle_errCmd, endCycle_errWord]
    exact ⟨ports_endCycle_of_busy hq hr hw hh, engineStep_errCmd_of_busy hq hu⟩

/-! ### The error flags -/

/-- Only ERR_CLR clears `err_key_len`, and only a START with another key length sets it (R40, R104). -/
theorem performed_errKeyLen (hclr : i ≠ .errClr) :
    (performed i s).errKeyLen = s.errKeyLen ∨
      ((∃ m, i = .start m) ∧ s.keyLen ≠ 16 ∧ (performed i s).errKeyLen = true) := by
  cases i
  case errClr => exact absurd rfl hclr
  case start m =>
    by_cases hk : s.keyLen = 16
    · exact .inl (by simp [performed, hk])
    · exact .inr ⟨⟨m, rfl⟩, hk, by simp [performed, hk]⟩
  all_goals
    left
    simp only [performed]
    repeat' split
    all_goals simp

/-- What an engine step that does not run ERR_CLR leaves of `err_key_len` (R40). -/
theorem engineStep_errKeyLen (hclr : s.fetch ≠ .run .errClr) (h : engineStep s = .next t) :
    t.errKeyLen = s.errKeyLen ∨
      (t.errKeyLen = true ∧ ∃ m, s.fetch = .run (.start m) ∧ s.fsm = .idle ∧ s.keyLen ≠ 16) := by
  rcases engineStep_cases h with rfl | ⟨-, w, -, rfl⟩ | ⟨i, hf, hen, rfl⟩
  · exact .inl rfl
  · exact .inl rfl
  · rcases performed_errKeyLen (s := s) (fun hi => hclr (hi ▸ hf)) with hsame | ⟨⟨m, rfl⟩, hk, hset⟩
    · exact .inl hsame
    · exact .inr ⟨hset, m, hf, runsIn_of_enabled hen, hk⟩

/-- What an engine step that does not run ERR_CLR leaves of `err_cmd` and `err_word`: both as they were, or the accepted
word recorded as illegal (R41, R42). -/
theorem engineStep_errCmd (hclr : s.fetch ≠ .run .errClr) (h : engineStep s = .next t) :
    (t.errCmd = s.errCmd ∧ t.errWord = s.errWord) ∨
      (s.fsm.quiescent = true ∧ t.errCmd = true ∧
        ∃ w, s.ports.cmd = some w ∧ t.errWord = if s.errCmd then s.errWord else w) := by
  rcases engineStep_cases h with rfl | ⟨hq, w, hw, rfl⟩ | ⟨i, hf, -, rfl⟩
  · exact .inl ⟨rfl, rfl⟩
  · exact .inr ⟨hq, rfl, w, hw, rfl⟩
  · exact .inl (performed_errCmd fun hi => hclr (hi ▸ hf))

/-- Settles O53, from what an engine step leaves of each flag. -/
theorem errorFlagsAreSticky : Obligations.ErrorFlagsAreSticky := by
  intro s t hr hclr hstep
  obtain ⟨u, hu, rfl⟩ := step_next_of_noReset hr hstep
  rw [endCycle_errKeyLen, endCycle_errCmd, endCycle_errWord]
  have hkey := engineStep_errKeyLen hclr hu
  have hcmd := engineStep_errCmd hclr hu
  refine ⟨fun hs => ?_, fun hs => ?_, fun hs ht => ?_, fun hs ht => ?_⟩
  · rcases hkey with hsame | ⟨hset, -⟩
    · rwa [hsame]
    · exact hset
  · rcases hcmd with ⟨hsame, hword⟩ | ⟨-, hset, w, -, hword⟩
    · exact ⟨hsame.trans hs, hword⟩
    · exact ⟨hset, by simpa [hs] using hword⟩
  · rcases hkey with hsame | ⟨-, hcause⟩
    · rw [hsame, hs] at ht
      cases ht
    · exact hcause
  · rcases hcmd with ⟨hsame, -⟩ | ⟨hq, -, w, hport, hword⟩
    · rw [hsame, hs] at ht
      cases ht
    · have hw : u.errWord = w := by simpa [hs] using hword
      exact ⟨Fsm.eq_idle_or_accept_of_quiescent hq, by rw [hport, hw]⟩

/-! ### `done` -/

/-- The two ends of a call: the last character of the last block, and MSG_END under X.923 with no partial block
(R110, R203). -/
def EndsCall (i : Instr) (s : State) : Prop :=
  (i = .emit ∧ s.idx = 31 ∧ s.last = true) ∨ (i = .msgEnd ∧ s.padMode = .x923 ∧ s.msgCnt = 0)

/-- What an instruction leaves of `done`: as it was, set at the end of a call, or cleared by START (R39). -/
theorem performed_done (i : Instr) (s : State) :
    (performed i s).done = s.done ∨
      ((performed i s).done = true ∧ (performed i s).fsm = .idle ∧ EndsCall i s) ∨
      ((performed i s).done = false ∧ (∃ m, i = .start m) ∧ s.keyLen = 16) := by
  cases i
  case start m =>
    by_cases hk : s.keyLen = 16
    · exact .inr (.inr ⟨by simp [performed, hk], ⟨m, rfl⟩, hk⟩)
    · exact .inl (by simp [performed, hk])
  case msgEnd =>
    by_cases hend : s.padMode = .x923 ∧ s.msgCnt = 0
    · obtain ⟨hpad, hcnt⟩ := hend
      exact .inr (.inl ⟨by simp [performed, hpad, hcnt], by simp [performed, hpad, hcnt], .inr ⟨rfl, hpad, hcnt⟩⟩)
    · left
      cases hpad : s.padMode
      · simp [performed, hpad]
      · have hcnt : s.msgCnt ≠ 0 := fun h0 => hend ⟨hpad, h0⟩
        simp [performed, hpad, hcnt]
  case emit =>
    by_cases hend : s.canPush = true ∧ s.idx = 31 ∧ s.last = true
    · obtain ⟨hroom, hidx, hlast⟩ := hend
      exact .inr (.inl ⟨by simp [performed, hroom, hidx, hlast], by simp [performed, hroom, hidx, hlast],
        .inl ⟨rfl, hidx, hlast⟩⟩)
    · left
      simp only [performed]
      split
      next hroom =>
        split
        next hidx =>
          split
          next hlast => exact absurd ⟨hroom, hidx, hlast⟩ hend
          next => rfl
        next => rfl
      next => rfl
  all_goals
    left
    simp only [performed]
    repeat' split
    all_goals simp

/-- What an engine step leaves of `done` (R39). -/
theorem engineStep_done (h : engineStep s = .next t) :
    t.done = s.done ∨
      (t.done = true ∧ t.fsm = .idle ∧ ∃ i, s.fetch = .run i ∧ enabled i s.fsm ∧ EndsCall i s) ∨
      (t.done = false ∧ ∃ m, s.fetch = .run (.start m) ∧ s.fsm = .idle ∧ s.keyLen = 16) := by
  rcases engineStep_cases h with rfl | ⟨-, w, -, rfl⟩ | ⟨i, hf, hen, rfl⟩
  · exact .inl rfl
  · exact .inl rfl
  · rcases performed_done i s with hsame | ⟨hset, hidle, hends⟩ | ⟨hclear, ⟨m, rfl⟩, hk⟩
    · exact .inl hsame
    · exact .inr (.inl ⟨hset, hidle, i, hf, hen, hends⟩)
    · exact .inr (.inr ⟨hclear, m, hf, runsIn_of_enabled hen, hk⟩)

/-- Settles O54: a reset clears `done`, and `engineStep_done` says what every other step leaves of it. -/
theorem doneMarksEndOfCall : Obligations.DoneMarksEndOfCall := by
  intro s t hstep
  rcases step_next hstep with ⟨hr, rfl⟩ | ⟨-, u, hu, rfl⟩
  · exact ⟨fun _ ht => by simp at ht, fun _ _ => .inl hr⟩
  · rw [endCycle_done, endCycle_fsm]
    rcases engineStep_done hu with hsame | ⟨hset, hidle, i, hf, hen, hends⟩ | ⟨hclear, hstart⟩
    · rw [hsame]
      exact ⟨fun hs ht => by simp [hs] at ht, fun hs ht => by simp [hs] at ht⟩
    · refine ⟨fun _ _ => ⟨hidle, ?_⟩, fun _ ht => by simp [hset] at ht⟩
      rcases hends with ⟨rfl, hidx, hlast⟩ | ⟨rfl, hpad, hcnt⟩
      · exact .inl ⟨runsIn_of_enabled hen, hidx, hlast⟩
      · exact .inr ⟨hf, runsIn_of_enabled hen, hpad, hcnt⟩
    · exact ⟨fun _ ht => by simp [hclear] at ht, fun _ _ => .inr hstart⟩

/-! ### Nothing stops, and nothing unwritten is read -/

theorem fsm_of_fetch {f : Fsm} (hm : f.microOp = some i) (hf : s.fetch = .run i) : s.fsm = f := by
  have hrun := runsIn_of_microOp (microOp_of_fetch hf (Fsm.isCommand_of_microOp hm))
  cases f
  case idle | accept => cases hm
  all_goals
    cases hm
    exact hrun

/-- A fetched micro-operation finds what the invariant says in the controller state that selects it. -/
theorem State.Inv.inPhase_of_fetch (f : Fsm) (h : s.Inv) (hm : f.microOp = some i) (hf : s.fetch = .run i) :
    s.InPhase f :=
  fsm_of_fetch hm hf ▸ h.inPhase

/-- Every entry the next engine step reads is written (R51): START and ECHO read a complete key, KEXP the words before
`w[kx_i]`, and the round states and EMIT a whole block and a whole schedule. -/
theorem State.Inv.readsWritten (h : s.Inv) : s.ReadsWritten := by
  unfold State.ReadsWritten
  split
  next m hf => exact fun hk j => h.key_written j (hk ▸ j.isLt)
  next hf =>
    obtain ⟨⟨hk, -⟩, -⟩ := h.inPhase_of_fetch .echo rfl hf
    exact fun j _ => h.key_written j (hk ▸ j.isLt)
  next hf =>
    obtain ⟨-, -, -, hw⟩ := h.inPhase_of_fetch .kexp rfl hf
    exact fun j hj => hw j (by omega)
  next hf =>
    obtain ⟨-, -, hw, hst⟩ := h.inPhase_of_fetch .rinit rfl hf
    exact ⟨fun j => hst j j.isLt, fun j _ => hw j j.isLt⟩
  next hf =>
    obtain ⟨⟨-, -, -, hst⟩, -⟩ := h.inPhase_of_fetch .rsub rfl hf
    exact fun j => hst j j.isLt
  next hf =>
    obtain ⟨⟨-, -, -, hst⟩, -⟩ := h.inPhase_of_fetch .rshift rfl hf
    exact fun j => hst j j.isLt
  next hf =>
    obtain ⟨⟨-, -, -, hst⟩, -⟩ := h.inPhase_of_fetch .rmix rfl hf
    exact fun j => hst j j.isLt
  next hf =>
    obtain ⟨⟨-, -, hw, hst⟩, -⟩ := h.inPhase_of_fetch .radd rfl hf
    exact ⟨fun j => hst j j.isLt, fun j _ _ => hw j j.isLt⟩
  next hf =>
    obtain ⟨⟨-, -, -, hst⟩, -⟩ := h.inPhase_of_fetch .emit rfl hf
    exact fun j _ => hst j j.isLt
  all_goals trivial

/-- Settles O60, by `step_isNext` and `State.Inv.readsWritten`. -/
theorem invariantStatesNeverStop : Obligations.InvariantStatesNeverStop :=
  ⟨step_isNext, fun _ h => h.readsWritten⟩

end Sys2Proof.Machine

/-! PROOFS. What the status outputs show (R44 to R46), the reset values (R49), the tables and AddRoundKey (R25, R26,
R170), and the two forms with an index out of range (log entry 8). -/

namespace Sys2Proof.Machine

variable {s : State}

/-! ### AddRoundKey -/

/-- A word is packed from its own bytes (R62). -/
theorem packWord_wordByte (v : Word) : packWord (wordByte v 0) (wordByte v 1) (wordByte v 2) (wordByte v 3) = v := by
  change v.extractLsb' 24 8 ++ v.extractLsb' 16 8 ++ v.extractLsb' 8 8 ++ v.extractLsb' 0 8 = v
  rw [BitVec.extractLsb'_append_extractLsb'_eq_extractLsb' (start₁ := 16) (len₁ := 8) rfl,
    BitVec.extractLsb'_append_extractLsb'_eq_extractLsb' (start₁ := 8) (len₁ := 8) rfl,
    BitVec.extractLsb'_append_extractLsb'_eq_extractLsb' (start₁ := 0) (len₁ := 8) rfl]
  exact BitVec.extractLsb'_eq_self

theorem packWord_xor (a0 a1 a2 a3 b0 b1 b2 b3 : Byte) :
    packWord (a0 ^^^ b0) (a1 ^^^ b1) (a2 ^^^ b2) (a3 ^^^ b3) = packWord a0 a1 a2 a3 ^^^ packWord b0 b1 b2 b3 := by
  change _ = (a0 ++ a1 ++ a2 ++ a3 : BitVec (8 + 8 + 8 + 8)) ^^^ (b0 ++ b1 ++ b2 ++ b3 : BitVec (8 + 8 + 8 + 8))
  rw [BitVec.xor_append, BitVec.xor_append, BitVec.xor_append]
  rfl

@[simp] theorem getElem_addRoundKey (b : Block) (w : Schedule) (r : Fin 11) {j : Nat} (hj : j < 16) :
    (addRoundKey b w r)[j] = b[j] ^^^ roundKeyByte w r ⟨j, hj⟩ := by
  simp [addRoundKey]

/-- Byte `d` of column `c` of a round key is byte `d` of word `w[4r + c]` (R24). -/
theorem roundKeyByte_column (w : Schedule) (r : Fin 11) (c d : Fin 4) :
    roundKeyByte w r ⟨4 * c.val + d.val, by omega⟩ = wordByte (w[4 * r.val + c.val]'(by omega)) d := by
  have hdiv : (4 * c.val + d.val) / 4 = c.val := by omega
  have hmod : (4 * c.val + d.val) % 4 = d.val := by omega
  simp only [roundKeyByte, hdiv, hmod]

/-- Settles O37: column by column through `packWord`, and byte by byte by definition. -/
theorem addRoundKeyXorsColumns : Obligations.AddRoundKeyXorsColumns := by
  rintro s w r c t rfl
  refine ⟨?_, fun j => getElem_addRoundKey s w r j.isLt⟩
  have hbyte (d : Fin 4) : (addRoundKey s w r)[4 * c.val + d.val] =
      s[4 * c.val + d.val] ^^^ wordByte (w[4 * r.val + c.val]'(by omega)) d := by
    rw [getElem_addRoundKey, roundKeyByte_column]
  conv => rhs; rw [← packWord_wordByte (w[4 * r.val + c.val]'(by omega))]
  refine Eq.trans ?_ (packWord_xor ..)
  exact congr (congr (congr (congrArg packWord (hbyte 0)) (hbyte 1)) (hbyte 2)) (hbyte 3)

/-! ### The S-box -/

/-- The inverse of the affine map of R25. -/
def affineInverse (b : Byte) : Byte :=
  b.rotateLeft 1 ^^^ b.rotateLeft 3 ^^^ b.rotateLeft 6 ^^^ 0x05#8

/-- The multiplicative inverse in GF(2^8) as the S-box table holds it: R25 has 0 for the inverse of 0. -/
def fieldInverse (a : Byte) : Byte :=
  affineInverse (sbox a)

theorem sboxAffine_affineInverse (b : Byte) : sboxAffine (affineInverse b) = b := by
  revert b
  decide

theorem fieldInverse_fieldInverse (a : Byte) : fieldInverse (fieldInverse a) = a := by
  revert a
  decide

theorem gfMul_fieldInverse {a : Byte} (ha : a ≠ 0x00#8) : gfMul a (fieldInverse a) = 0x01#8 := by
  revert a
  decide

theorem sbox_eq_sboxAffine (a : Byte) : sbox a = sboxAffine (fieldInverse a) :=
  (sboxAffine_affineInverse (sbox a)).symm

theorem sbox_injective : Function.Injective sbox := by
  intro a b h
  have hinv : fieldInverse a = fieldInverse b := congrArg affineInverse h
  rw [← fieldInverse_fieldInverse a, hinv, fieldInverse_fieldInverse]

/-- The byte whose inverse the affine map takes to `b`. -/
theorem sbox_fieldInverse_affineInverse (b : Byte) : sbox (fieldInverse (affineInverse b)) = b := by
  rw [sbox_eq_sboxAffine, fieldInverse_fieldInverse, sboxAffine_affineInverse]

/-- Settles O32: the inverse read off the table is a multiplicative inverse and undoes itself, so the S-box is one to
one and onto. -/
theorem sboxIsAffineInversePermutation : Obligations.SboxIsAffineInversePermutation :=
  ⟨fun _ => rfl, fun _ _ h => sbox_injective h, fun b => ⟨_, sbox_fieldInverse_affineInverse b⟩, by decide,
    fun a ha => ⟨fieldInverse a, gfMul_fieldInverse ha, sbox_eq_sboxAffine a⟩⟩

/-! ### Index out of range -/

/-- Settles O31: the open count of log entry 8 for MSG_WR, the word of the recurrence for KEXP. -/
theorem outOfRangeIndexRunsOn : Obligations.OutOfRangeIndexRunsOn := by
  constructor
  · intro s d hf hcnt
    refine ⟨Config.msgCntPast d, ?_⟩
    rw [exec_of_enabled (.inl (by rw [hf]; rfl)), performed, appendMsg_of_full hcnt]
    by_cases hfull : Config.msgCntPast d = 16
    · simp [hfull, State.beginBlock]
    · simp [hfull]
  · intro s hf hlt
    refine ⟨scheduleWord s.kxI.val (wordBefore s.w s.kxI 1) (wordBefore s.w s.kxI 4), ?_⟩
    have hne : s.kxI.val ≠ 43 := by omega
    have hbump : bump s.kxI = ⟨s.kxI.val + 1, by omega⟩ := Fin.ext (bump_val_of_lt (by omega))
    rw [exec_of_enabled (.inr (by rw [hf]; rfl)), performed, if_neg hne, hbump]
    rfl

/-! ### The outputs -/

theorem Fsm.quiescent_iff {f : Fsm} : f.quiescent = true ↔ f = .idle ∨ f = .accept := by
  cases f <;> simp [Fsm.quiescent]

theorem bitOfPadMode_eq_ofBool (m : PadMode) : bitOfPadMode m = BitVec.ofBool (decide (m = .x923)) := by
  cases m <;> rfl

theorem getLsbD_append_ofBool_zero {n : Nat} (x : BitVec n) (b : Bool) : (x ++ BitVec.ofBool b).getLsbD 0 = b := by
  rw [BitVec.getLsbD_append]
  simp

theorem getLsbD_append_ofBool_succ {n : Nat} (x : BitVec n) (b : Bool) (k : Nat) :
    (x ++ BitVec.ofBool b).getLsbD (k + 1) = x.getLsbD k := by
  simp [BitVec.getLsbD_append]

theorem extractLsb'_append_ofBool_succ {n : Nat} (x : BitVec n) (b : Bool) (k len : Nat) :
    (x ++ BitVec.ofBool b).extractLsb' (k + 1) len = x.extractLsb' k len :=
  BitVec.extractLsb'_append_eq_of_le (Nat.succ_le_succ (Nat.zero_le k))

/-- The fields of a word laid out as R44 lays out STATUS. -/
theorem statusLayout_fields (z : BitVec 3) (len : BitVec 5) (b7 b6 b5 b4 b3 b2 b1 b0 : Bool) :
    let v := z ++ len ++ BitVec.ofBool b7 ++ BitVec.ofBool b6 ++ BitVec.ofBool b5 ++ BitVec.ofBool b4 ++
      BitVec.ofBool b3 ++ BitVec.ofBool b2 ++ BitVec.ofBool b1 ++ BitVec.ofBool b0
    (v.getLsbD 0 = b0 ∧ v.getLsbD 1 = b1 ∧ v.getLsbD 2 = b2 ∧ v.getLsbD 3 = b3 ∧ v.getLsbD 4 = b4 ∧
      v.getLsbD 5 = b5 ∧ v.getLsbD 6 = b6 ∧ v.getLsbD 7 = b7) ∧
      v.extractLsb' 8 5 = len ∧ v.extractLsb' 13 3 = z := by
  simp only [getLsbD_append_ofBool_zero, getLsbD_append_ofBool_succ, extractLsb'_append_ofBool_succ,
    BitVec.extractLsb'_append_eq_right, BitVec.extractLsb'_append_eq_left, and_self, -Nat.reduceAdd]

theorem status_fields (s : State) :
    (s.status.getLsbD 0 = (!s.fsm.quiescent) ∧ s.status.getLsbD 1 = (s.fsm == .accept) ∧
      s.status.getLsbD 2 = s.done ∧ s.status.getLsbD 3 = s.errKeyLen ∧ s.status.getLsbD 4 = s.errCmd ∧
      s.status.getLsbD 5 = decide (s.padMode = .x923) ∧ s.status.getLsbD 6 = s.outq.isEmpty ∧
      s.status.getLsbD 7 = decide (s.outq.length = s.outDepth)) ∧
      s.status.extractLsb' 8 5 = BitVec.ofNat 5 s.keyLen.val ∧ s.status.extractLsb' 13 3 = 0#3 := by
  rw [State.status, bitOfPadMode_eq_ofBool]
  exact statusLayout_fields ..

/-- Settles O51: `status_fields`, each bit read as what it says of the state. -/
theorem statusFields : Obligations.StatusFields := by
  intro s
  obtain ⟨⟨hbusy, haccept, hdone, hkey, hcmd, hpad, hempty, hfull⟩, hlen, hzero⟩ := status_fields s
  refine ⟨?_, ?_, hdone, hkey, hcmd, ?_, ?_, ?_, ?_, hzero, rfl⟩
  · rw [hbusy, Bool.not_eq_true', ← Bool.not_eq_true, Fsm.quiescent_iff, not_or]
  · rw [haccept, beq_iff_eq]
  · rw [hpad, decide_eq_true_iff]
  · rw [hempty, List.isEmpty_iff]
  · rw [hfull, decide_eq_true_iff]
  · rw [hlen, BitVec.toNat_ofNat]
    exact Nat.mod_eq_of_lt (by omega)

/-- Settles O52: `cmd_ready` by `Fsm.quiescent_iff`, the output port by its two inputs, reset and the head of `outq`. -/
theorem handshakeAndErrinfoOutputs : Obligations.HandshakeAndErrinfoOutputs := by
  intro s
  refine ⟨?_, ?_, ?_, ?_, rfl, rfl⟩
  · simp [State.cmdReady, Fsm.quiescent_iff]
  · cases hr : s.ports.rst <;> cases hq : s.outq <;> simp [State.outValid, State.outPort, hr, hq]
  · intro e q hq hr
    simp [State.outPort, hq, hr]
  · simp [State.outValid]

/-- Settles O55, field by field of `State.reset`. -/
theorem resetStateValues : Obligations.ResetStateValues :=
  ⟨rfl, rfl, rfl, rfl, rfl, rfl, rfl, rfl, rfl, rfl, rfl, rfl, rfl,
    fun j => by simp [State.reset], fun i => by simp [State.reset]⟩

end Sys2Proof.Machine

/-! PROOFS. The output FIFO over one step (R72, R205, R206): a pop moves an entry from `outq` to what the host has
received and so leaves the stream alone, and only ECHO and EMIT push. -/

namespace Sys2Proof.Machine

variable {s t : State} {i : Instr}

/-! ### The host's pop -/

/-- A pop delivers the head of the FIFO, or nothing if it is empty, so the stream stays (R206). -/
@[simp] theorem State.popOut_stream : s.popOut.stream = s.stream := by
  simp only [State.stream, State.popOut_received, State.popOut_outq]
  cases s.outq <;> simp

@[simp] theorem endCycle_stream (s t : State) : (s.endCycle t).stream = t.stream := by
  unfold State.endCycle
  split
  · exact State.popOut_stream
  · rfl

/-! ### The engine's push -/

theorem performed_outq_of_ne (hecho : i ≠ .echo) (hemit : i ≠ .emit) : (performed i s).outq = s.outq := by
  cases i
  case echo => exact absurd rfl hecho
  case emit => exact absurd rfl hemit
  all_goals
    simp only [performed]
    repeat' split
    all_goals simp

/-- An instruction that changes the FIFO runs in `ECHO` or `EMIT` (R205). -/
theorem outputPhase_of_performed_outq (hen : enabled i s.fsm) (hne : (performed i s).outq ≠ s.outq) :
    s.fsm = .echo ∨ s.fsm = .emit := by
  have hrun := runsIn_of_enabled hen
  by_cases hecho : i = .echo
  · subst hecho
    exact .inl hrun
  by_cases hemit : i = .emit
  · subst hemit
    exact .inr hrun
  exact absurd (performed_outq_of_ne hecho hemit) hne

/-- What an engine step leaves of the FIFO: as it was, or with one entry pushed in `ECHO` or `EMIT` with room (R205). -/
theorem engineStep_outq (h : engineStep s = .next t) :
    t.outq = s.outq ∨
      (s.outq.length < s.outDepth ∧ (s.fsm = .echo ∨ s.fsm = .emit) ∧ ∃ e, t.outq = s.outq ++ [e]) := by
  rcases engineStep_cases h with rfl | ⟨-, w, -, rfl⟩ | ⟨i, -, hen, rfl⟩
  · exact .inl rfl
  · exact .inl rfl
  · rcases exec_outq (exec_of_enabled hen) with hsame | ⟨hroom, e, hpush⟩
    · exact .inl hsame
    · have hphase := outputPhase_of_performed_outq hen (by simp [hpush])
      exact .inr ⟨of_decide_eq_true hroom, hphase, e, hpush⟩

theorem engineStep_received (h : engineStep s = .next t) : t.received = s.received := by
  rcases engineStep_next h with ⟨-, rfl⟩ | ⟨w, -, rfl⟩ | ⟨i, -, he⟩
  · rfl
  · rfl
  · obtain ⟨-, -, hreceived, -⟩ := exec_env he
    exact hreceived

/-- Settles O48: the end of the cycle keeps the stream (`endCycle_stream`), so it grows by what the engine step pushes
(`engineStep_outq`). -/
theorem outputStreamOnlyGrows : Obligations.OutputStreamOnlyGrows := by
  intro s t hr hstep
  obtain ⟨u, hu, rfl⟩ := step_next_of_noReset hr hstep
  rw [endCycle_stream]
  have hreceived := engineStep_received hu
  rcases engineStep_outq hu with hsame | ⟨hroom, hphase, e, hpush⟩
  · exact .inl (by rw [State.stream, State.stream, hreceived, hsame])
  · refine .inr ⟨hroom, hphase, e, ?_⟩
    rw [State.stream, State.stream, hreceived, hpush, List.append_assoc]

end Sys2Proof.Machine

/-! PROOFS. The command words (R83 to R85, R89): what decodes is exactly the encodings of the instructions, so the legal
words are counted command by command; and the decoder's case list and its illegal words, field by field. -/

namespace Sys2Proof

variable {i j : Instr} {w : CmdWord}

/-! ### Decoder and encoder as inverses -/

theorem decode_encode (i : Instr) : decode (encode i) = .ok i := by
  cases h : encode i with
  | cmd w => exact decodeCmd_of_encode h
  | fsm c => exact decodeMicro_of_encode h

/-- The micro-operation a code selects has that code: the converse of `decodeMicro_of_encode` (R86). -/
theorem encode_of_decodeMicro {c : BitVec 4} (h : decodeMicro c = .ok i) : encode i = .fsm c := by
  unfold decodeMicro at h
  split at h
  case h_1 | h_4 | h_11 => cases h
  all_goals
    next hc =>
    cases h
    exact congrArg Encoded.fsm (BitVec.eq_of_toNat_eq hc.symm)

/-- Settles O1, by `decode_encode`: well-formedness shuts no instruction out. -/
theorem decodeEncodeRoundTrip : Obligations.DecodeEncodeRoundTrip :=
  fun i _ => decode_encode i

/-- Settles O2, one format at a time. -/
theorem encodeDecodeRoundTrip : Obligations.EncodeDecodeRoundTrip
  | .cmd _, _, h => encode_of_decodeCmd h
  | .fsm _, _, h => encode_of_decodeMicro h

/-- Settles O5: each word and code is decoded. -/
theorem writtenWordsDecode : Obligations.WrittenWordsDecode :=
  ⟨rfl, rfl, rfl, rfl, rfl, rfl, rfl, rfl, rfl, rfl, rfl, rfl, rfl⟩

/-! ### The decoder's cases, field by field -/

theorem append_eq_zero_iff {m n : Nat} {x : BitVec m} {y : BitVec n} : x ++ y = 0#(m + n) ↔ x = 0#m ∧ y = 0#n := by
  constructor
  · intro h
    constructor
    · rw [← BitVec.extractLsb'_append_eq_left (a := x) (b := y), h, BitVec.extractLsb'_zero]
    · rw [← BitVec.extractLsb'_append_eq_right (a := x) (b := y), h, BitVec.extractLsb'_zero]
  · rintro ⟨rfl, rfl⟩
    exact BitVec.zero_append_zero

/-- Bits 11:8 are `RSV` and `M` (R80). -/
theorem extractLsb'_8_4_eq_zero_iff : w.extractLsb' 8 4 = 0x0#4 ↔ fieldRSV w = 0#3 ∧ fieldM w = 0#1 := by
  rw [← append_eq_zero_iff, fieldRSV, fieldM, 
    BitVec.extractLsb'_append_extractLsb'_eq_extractLsb' (start₁ := 8) (len₁ := 1) rfl]

/-- Bits 11:0 are `RSV`, `M` and `D` (R80). -/
theorem extractLsb'_0_12_eq_zero_iff :
    w.extractLsb' 0 12 = 0x000#12 ↔ fieldRSV w = 0#3 ∧ fieldM w = 0#1 ∧ fieldD w = 0x00#8 := by
  rw [← and_assoc, ← extractLsb'_8_4_eq_zero_iff, ← append_eq_zero_iff, fieldD,
    BitVec.extractLsb'_append_extractLsb'_eq_extractLsb' (start₁ := 0) (len₁ := 8) rfl]

theorem fieldM_eq_ofBool (w : CmdWord) : fieldM w = BitVec.ofBool (w.getLsbD 8) := by
  ext k hk
  simp [fieldM, Nat.lt_one_iff.mp hk]

theorem fieldM_eq_zero_iff : fieldM w = 0#1 ↔ w.getLsbD 8 = false := by
  rw [fieldM_eq_ofBool]
  cases w.getLsbD 8 <;> decide

theorem padModeOfBit_fieldM (w : CmdWord) : padModeOfBit (fieldM w) = if w.getLsbD 8 then .x923 else .pkcs7 := by
  rw [fieldM_eq_ofBool]
  cases w.getLsbD 8 <;> rfl

theorem unusedFieldsZero_toOption (usesM usesD : Bool) (w : CmdWord) (i : Instr) :
    (unusedFieldsZero usesM usesD w i).toOption =
      if fieldRSV w = 0#3 ∧ (usesM = false → fieldM w = 0#1) ∧ (usesD = false → fieldD w = 0x00#8) then some i
      else none := by
  split
  next h => rw [unusedFieldsZero_eq_ok.mpr ⟨h.1, h.2.1, h.2.2, rfl⟩]; rfl
  next h =>
    cases hu : unusedFieldsZero usesM usesD w i with
    | error r => rfl
    | ok k =>
      obtain ⟨hr, hm, hd, -⟩ := unusedFieldsZero_eq_ok.mp hu
      exact absurd ⟨hr, hm, hd⟩ h

theorem decodeCmd_reserved (h : 7 ≤ (fieldOP w).toNat) : decodeCmd w = .error .reservedOpcode := by
  unfold decodeCmd
  split
  case h_8 => rfl
  all_goals omega

/-- Settles O3: the opcode selects the arm, and the field tests of `unusedFieldsZero` are those of R84. -/
theorem decoderFollowsItsCases : Obligations.DecoderFollowsItsCases := by
  intro w
  refine ⟨fun h => ?_, fun h => ?_, fun h => ?_, fun h => ?_, fun h => ?_, fun h => ?_, fun h => ?_, fun h => ?_⟩
  case refine_8 =>
    rw [decodeCmd_reserved h]
    rfl
  case refine_4 =>
    simp [decodeCmd, show fieldOP w = _ from h, unusedFieldsZero_toOption, padModeOfBit_fieldM, fieldRSV, fieldD]
  case refine_3 | refine_5 =>
    simp [decodeCmd, show fieldOP w = _ from h, unusedFieldsZero_toOption, extractLsb'_8_4_eq_zero_iff, fieldD]
  all_goals
    simp [decodeCmd, show fieldOP w = _ from h, unusedFieldsZero_toOption, extractLsb'_0_12_eq_zero_iff]

theorem opcode_cases (op : BitVec 4) :
    op = 0x0#4 ∨ op = 0x1#4 ∨ op = 0x2#4 ∨ op = 0x3#4 ∨ op = 0x4#4 ∨ op = 0x5#4 ∨ op = 0x6#4 ∨ 7 ≤ op.toNat := by
  revert op; decide

theorem unusedFieldsZero_toOption_eq_none_iff {usesM usesD : Bool} :
    (unusedFieldsZero usesM usesD w i).toOption = none ↔
      fieldRSV w ≠ 0#3 ∨ (usesM = false ∧ fieldM w ≠ 0#1) ∨ (usesD = false ∧ fieldD w ≠ 0x00#8) := by
  simp only [unusedFieldsZero_toOption, ite_eq_right_iff, reduceCtorEq, imp_false,
    Classical.not_and_iff_not_or_not, Classical.not_imp, ne_eq]

/-- The illegal words: a reserved opcode, or a field the command does not use is not zero (R85). -/
theorem decodeCmd_toOption_eq_none_iff :
    (decodeCmd w).toOption = none ↔
      7 ≤ (fieldOP w).toNat ∨ fieldRSV w ≠ 0#3 ∨ (fieldOP w ≠ 0x3#4 ∧ fieldM w ≠ 0#1) ∨
        (fieldOP w ≠ 0x2#4 ∧ fieldOP w ≠ 0x4#4 ∧ fieldD w ≠ 0x00#8) := by
  rcases opcode_cases (fieldOP w) with h | h | h | h | h | h | h | h
  case inr.inr.inr.inr.inr.inr.inr =>
    rw [decodeCmd_reserved h]
    exact iff_of_true rfl (.inl h)
  all_goals simp [decodeCmd, h, unusedFieldsZero_toOption_eq_none_iff]

/-! ### The legal words -/

theorem decodeCmd_toOption_eq_some_iff : (decodeCmd w).toOption = some i ↔ encode i = .cmd w := by
  constructor
  · intro h
    cases hd : decodeCmd w with
    | error r => rw [hd] at h; cases h
    | ok k => rw [hd] at h; cases h; exact encode_of_decodeCmd hd
  · intro h
    rw [decodeCmd_of_encode h]
    rfl

theorem decodeCmd_isSome_iff : (decodeCmd w).toOption.isSome = true ↔ ∃ i, encode i = .cmd w := by
  simp only [Option.isSome_iff_exists, decodeCmd_toOption_eq_some_iff]

theorem isCommand_of_encode (h : encode i = .cmd w) : i.isCommand = true := by
  cases i
  case echo | kexp | rinit | rsub | rshift | rmix | radd | emit => cases h
  all_goals rfl

/-- A host command is encoded as a command word (R86). -/
theorem encode_of_isCommand (h : i.isCommand = true) : encode i = .cmd (encode i).bits := by
  cases i
  case echo | kexp | rinit | rsub | rshift | rmix | radd | emit => cases h
  all_goals rfl

theorem encode_keyWr (d : Byte) : encode (.keyWr d) = .cmd (0x2000#16 ||| d.setWidth 16) := by
  revert d; decide

theorem encode_msgWr (d : Byte) : encode (.msgWr d) = .cmd (0x4000#16 ||| d.setWidth 16) := by
  revert d; decide

theorem encode_start (m : PadMode) : encode (.start m) = .cmd (if m = .pkcs7 then 0x3000#16 else 0x3100#16) := by
  cases m <;> rfl

/-! ### The rows of the opcode map -/

theorem tableRow (i : Instr) : Laws.TableRow.Statement i :=
  match i with
  | .nop => Laws.TableRow.nop
  | .keyClr => Laws.TableRow.keyClr
  | .keyWr d => Laws.TableRow.keyWr d
  | .start m => Laws.TableRow.start m
  | .msgWr d => Laws.TableRow.msgWr d
  | .msgEnd => Laws.TableRow.msgEnd
  | .errClr => Laws.TableRow.errClr
  | .echo => Laws.TableRow.echo
  | .kexp => Laws.TableRow.kexp
  | .rinit => Laws.TableRow.rinit
  | .rsub => Laws.TableRow.rsub
  | .rshift => Laws.TableRow.rshift
  | .rmix => Laws.TableRow.rmix
  | .radd => Laws.TableRow.radd
  | .emit => Laws.TableRow.emit

/-- The word of a command lies in a row of R83. -/
theorem exists_row_of_encode (h : encode i = .cmd w) : ∃ r ∈ opcodeMap, r.covers w = true := by
  have hrow := tableRow i
  rw [Laws.TableRow.Statement, h] at hrow
  split at hrow
  next n w' _ hw =>
    cases hw
    obtain ⟨r, hr, hcovers⟩ := hrow
    exact ⟨r, List.mem_of_getElem? hr, hcovers⟩
  next hw => cases hw
  next => exact hrow.elim

theorem and_mask_of_covers {r : OpcodeRow} (h : r.covers w = true) : w &&& r.mask = r.pattern :=
  eq_of_beq h

/-- A word of a row is the row's pattern with bits of its own outside the mask. -/
theorem eq_pattern_or_of_covers {r : OpcodeRow} (h : r.covers w = true) : w = r.pattern ||| (w &&& ~~~r.mask) := by
  rw [← and_mask_of_covers h, ← BitVec.and_or_distrib_left, BitVec.or_not_self, BitVec.and_allOnes]

theorem and_noBits (w : CmdWord) : w &&& ~~~0xFFFF#16 = 0x0000#16 :=
  BitVec.and_zero

theorem and_lowByte (w : CmdWord) : w &&& ~~~0xFF00#16 = (fieldD w).setWidth 16 := by
  rw [fieldD, ← BitVec.setWidth_eq_extractLsb' (by decide)]
  apply BitVec.eq_of_toNat_eq
  simp [Nat.and_two_pow_sub_one_eq_mod w.toNat 8]
  omega

theorem and_modeBit (w : CmdWord) : w &&& ~~~0xFEFF#16 = if w.getLsbD 8 then 0x0100#16 else 0x0000#16 :=
  BitVec.and_twoPow w 8

/-- A word of a row is the word of the row's command: the converse of `exists_row_of_encode`. -/
theorem exists_encode_of_covers {r : OpcodeRow} (hr : r ∈ opcodeMap) (h : r.covers w = true) :
    ∃ i, encode i = .cmd w := by
  rw [eq_pattern_or_of_covers h]
  simp only [opcodeMap, List.mem_cons, List.not_mem_nil, or_false] at hr
  rcases hr with rfl | rfl | rfl | rfl | rfl | rfl | rfl
  · exact ⟨.nop, by rw [and_noBits]; rfl⟩
  · exact ⟨.keyClr, by rw [and_noBits]; rfl⟩
  · exact ⟨.keyWr (fieldD w), by rw [and_lowByte, encode_keyWr]⟩
  · refine ⟨.start (if w.getLsbD 8 then .x923 else .pkcs7), ?_⟩
    rw [and_modeBit, encode_start]
    cases w.getLsbD 8 <;> rfl
  · exact ⟨.msgWr (fieldD w), by rw [and_lowByte, encode_msgWr]⟩
  · exact ⟨.msgEnd, by rw [and_noBits]; rfl⟩
  · exact ⟨.errClr, by rw [and_noBits]; rfl⟩

/-- Two different rows differ in a bit that both masks look at. -/
theorem opcodeMap_disjoint :
    ∀ r ∈ opcodeMap, ∀ r' ∈ opcodeMap, r.pattern &&& r'.mask = r'.pattern &&& r.mask → r = r' := by
  decide

/-- No word lies in two rows (R83). -/
theorem row_unique {r r' : OpcodeRow} (hr : r ∈ opcodeMap) (hr' : r' ∈ opcodeMap) (h : r.covers w = true)
    (h' : r'.covers w = true) : r = r' := by
  apply opcodeMap_disjoint r hr r' hr'
  rw [← and_mask_of_covers h, ← and_mask_of_covers h', BitVec.and_assoc, BitVec.and_assoc, BitVec.and_comm r.mask]

/-! ### Counting the legal words -/

/-- The host commands that carry no byte. -/
def plainCommands : List Instr :=
  [.nop, .keyClr, .start .pkcs7, .start .x923, .msgEnd, .errClr]

/-- Every byte once. -/
def allBytes : List Byte :=
  (List.range 256).map (BitVec.ofNat 8)

/-- Every host command once, KEY_WR and MSG_WR with each byte. -/
def allCommands : List Instr :=
  plainCommands ++ allBytes.map .keyWr ++ allBytes.map .msgWr

theorem mem_allBytes (d : Byte) : d ∈ allBytes :=
  List.mem_map.mpr ⟨d.toNat, List.mem_range.mpr d.isLt, by rw [BitVec.ofNat_toNat, BitVec.setWidth_eq]⟩

theorem length_allBytes : allBytes.length = 256 := by
  rw [allBytes, List.length_map, List.length_range]

theorem nodup_map_of_injOn {α β : Type} {f : α → β} {l : List α} (hl : l.Nodup)
    (hf : ∀ a ∈ l, ∀ b ∈ l, f a = f b → a = b) : (l.map f).Nodup :=
  List.pairwise_map.mpr (List.Pairwise.imp_of_mem (fun ha hb hne he => hne (hf _ ha _ hb he)) hl)

theorem nodup_allBytes : allBytes.Nodup := by
  refine nodup_map_of_injOn List.nodup_range fun a ha b hb h => ?_
  have hnat := congrArg BitVec.toNat h
  rwa [BitVec.toNat_ofNat, BitVec.toNat_ofNat, Nat.mod_eq_of_lt (List.mem_range.mp ha),
    Nat.mod_eq_of_lt (List.mem_range.mp hb)] at hnat

theorem mem_allCommands_iff : i ∈ allCommands ↔ i.isCommand = true := by
  cases i
  case start m => cases m <;> simp [allCommands, plainCommands, Instr.isCommand]
  all_goals simp [allCommands, plainCommands, Instr.isCommand, mem_allBytes]

theorem length_allCommands : allCommands.length = 518 := by
  rw [allCommands, plainCommands, List.length_append, List.length_append, List.length_map, List.length_map,
    length_allBytes]
  rfl

theorem nodup_allCommands : allCommands.Nodup := by
  have hkeyWr : (allBytes.map Instr.keyWr).Nodup :=
    nodup_map_of_injOn nodup_allBytes fun _ _ _ _ => Instr.keyWr.inj
  have hmsgWr : (allBytes.map Instr.msgWr).Nodup :=
    nodup_map_of_injOn nodup_allBytes fun _ _ _ _ => Instr.msgWr.inj
  simp [allCommands, plainCommands, List.nodup_append, hkeyWr, hmsgWr]

/-- The legal command words, each once (R83). -/
def legalWords : List CmdWord :=
  allCommands.map fun i => (encode i).bits

theorem mem_legalWords_iff : w ∈ legalWords ↔ ∃ i, encode i = .cmd w := by
  simp only [legalWords, List.mem_map, mem_allCommands_iff]
  constructor
  · rintro ⟨i, hi, rfl⟩
    exact ⟨i, encode_of_isCommand hi⟩
  · rintro ⟨i, hi⟩
    exact ⟨i, isCommand_of_encode hi, by rw [hi]; rfl⟩

theorem bits_encode_inj (hi : i.isCommand = true) (hj : j.isCommand = true) (h : (encode i).bits = (encode j).bits) :
    i = j := by
  have hd := decodeCmd_of_encode (encode_of_isCommand hi)
  rw [h, decodeCmd_of_encode (encode_of_isCommand hj)] at hd
  exact (Except.ok.inj hd).symm

theorem nodup_legalWords : legalWords.Nodup :=
  nodup_map_of_injOn nodup_allCommands fun _ hi _ hj =>
    bits_encode_inj (mem_allCommands_iff.mp hi) (mem_allCommands_iff.mp hj)

/-- Settles O4: legal words are encodings, so they lie in the rows of their commands and are as many as the commands. -/
theorem opcodeRowsCoverLegalWordsOnce : Obligations.OpcodeRowsCoverLegalWordsOnce := by
  refine ⟨fun w => ?_, fun w r hr r' hr' => row_unique hr hr', legalWords, ?_, nodup_legalWords, fun w => ?_⟩
  · rw [decodeCmd_isSome_iff]
    exact ⟨fun ⟨i, hi⟩ => exists_row_of_encode hi, fun ⟨r, hr, h⟩ => exists_encode_of_covers hr h⟩
  · rw [legalWords, List.length_map, length_allCommands]
  · rw [decodeCmd_isSome_iff, mem_legalWords_iff]

end Sys2Proof

/-! PROOFS. One step around a decoded instruction, an illegal word or no command (R85, R86, R100, R180), and the end of
its cycle with and without a pop (R206, R264). -/

namespace Sys2Proof.Machine

variable {s : State} {i : Instr} {w : CmdWord}

/-! ### The step of each fetch -/

theorem step_of_fetch_run (hr : s.ports.rst = false) (h : s.fetch = .run i) :
    step s = onNext s.endCycle (exec i s) := by
  rw [step_of_noReset hr, engineStep, h]

theorem step_of_fetch_illegal (hr : s.ports.rst = false) (h : s.fetch = .illegal w) :
    step s = .next (s.endCycle (s.raise (.illegalCmd w))) := by
  rw [step_of_noReset hr, engineStep, h]
  rfl

theorem step_of_fetch_wait (hr : s.ports.rst = false) (h : s.fetch = .wait) : step s = .next (s.endCycle s) := by
  rw [step_of_noReset hr, engineStep, h]
  rfl

theorem fetch_of_decodeMicro (h : decodeMicro s.fsm.code = .ok i) : s.fetch = .run i := by
  simp [State.fetch, h]

theorem fetch_of_command (hq : s.fsm.quiescent = true) (hw : s.ports.cmd = some w) (h : decodeCmd w = .ok i) :
    s.fetch = .run i := by
  simp [fetch_of_quiescent hq, hw, h]

theorem fetch_of_illegal (hq : s.fsm.quiescent = true) (hw : s.ports.cmd = some w)
    (h : (decodeCmd w).toOption = none) : s.fetch = .illegal w := by
  cases hd : decodeCmd w with
  | ok k => rw [hd] at h; cases h
  | error r => simp [fetch_of_quiescent hq, hw, hd]

theorem fetch_of_noCommand (hq : s.fsm.quiescent = true) (hw : s.ports.cmd = none) : s.fetch = .wait := by
  simp [fetch_of_quiescent hq, hw]

/-! ### The end of a cycle -/

theorem pops_iff : s.pops = true ↔ s.outq ≠ [] ∧ s.ports.rst = false ∧ s.ports.outReady = true := by
  cases hr : s.ports.rst <;> cases hq : s.outq <;> simp [State.pops, State.outValid, State.outPort, hr, hq]

theorem endCycle_of_pop (t : State) (h : s.pops = true) :
    s.endCycle t =
      { t with outq := t.outq.tail, received := t.received ++ t.outq.head?.toList, host := s.hostAfter } := by
  rw [State.endCycle, if_pos h, State.popOut]

theorem endCycle_of_noPop (t : State) (h : s.pops = false) : s.endCycle t = { t with host := s.hostAfter } := by
  rw [State.endCycle, h, if_neg Bool.false_ne_true]

/-- A quiescent engine out of reset takes the word on the port, so the host goes on to its next cycle (R260). -/
theorem hostAfter_of_quiescent (hr : s.ports.rst = false) (hq : s.fsm.quiescent = true) :
    s.hostAfter = s.host.tail := by
  simp [State.hostAfter, State.cmdReady, hr, hq]

/-- Settles O8: what is fetched is what runs, and the end of the cycle pops exactly when `pops_iff` says. -/
theorem stepRunsDecodedInstruction : Obligations.StepRunsDecodedInstruction := by
  refine ⟨?_, ?_, ?_, ?_, ?_, ?_⟩
  · intro s w i hr hf hw hd
    exact step_of_fetch_run hr (fetch_of_command (Fsm.quiescent_iff.mpr hf) hw hd)
  · intro s i hr hd
    exact step_of_fetch_run hr (fetch_of_decodeMicro hd)
  · intro s w hr hf hw hd
    exact step_of_fetch_illegal hr (fetch_of_illegal (Fsm.quiescent_iff.mpr hf) hw hd)
  · intro s hr hf hw
    exact step_of_fetch_wait hr (fetch_of_noCommand (Fsm.quiescent_iff.mpr hf) hw)
  · intro s t hne hr hready
    exact endCycle_of_pop t (pops_iff.mpr ⟨hne, hr, hready⟩)
  · intro s t h
    refine endCycle_of_noPop t (Bool.eq_false_iff.mpr fun hp => ?_)
    obtain ⟨hne, -, hready⟩ := pops_iff.mp hp
    rcases h with h | h
    · exact hne h
    · rw [h] at hready
      cases hready

/-- Settles O6: the illegal words by `decodeCmd_toOption_eq_none_iff`; the step records one and no pop is due. -/
theorem illegalWordOnlyRaisesError : Obligations.IllegalWordOnlyRaisesError := by
  constructor
  · intro w
    rw [decodeCmd_toOption_eq_none_iff, ne_eq (fieldM w), fieldM_eq_zero_iff, Bool.not_eq_false]
    rfl
  · intro s w hr hf hw hp hd
    have hq := Fsm.quiescent_iff.mpr hf
    rw [step_of_fetch_illegal hr (fetch_of_illegal hq hw hd), endCycle_of_noPop _ hp, hostAfter_of_quiescent hr hq]
    rfl

end Sys2Proof.Machine

/-! PROOFS. The assembler (R87, R88): a line that is not `.word` assembles to the encodings of its commands, which are
host commands, and a byte or code point is taken exactly when it is at most 255. -/

namespace Sys2Proof.Machine

variable {l : AsmLine} {is : List Instr}

/-! ### Lines as commands -/

theorem assemble_of_commands (h : l.commands = some is) : l.assemble = some (is.map fun i => (encode i).bits) := by
  cases l
  case word v => cases h
  all_goals simp [AsmLine.assemble, h]

theorem assemble_of_commands_none (hl : ∀ v, l ≠ .word v) (h : l.commands = none) : l.assemble = none := by
  cases l
  case word v => exact absurd rfl (hl v)
  all_goals simp [AsmLine.assemble, h]

/-- A line writes host commands only (R86). -/
theorem wellFormedProgram_of_commands (h : l.commands = some is) : wellFormedProgram is = true := by
  cases l
  case word v => cases h
  case keyWr n | msgWr n | msgText cs | encrypt m cs =>
    obtain ⟨b, -, rfl⟩ := Option.map_eq_some_iff.mp h
    simp [wellFormedProgram, Instr.isCommand]
  all_goals
    cases h
    simp [wellFormedProgram, Instr.isCommand]

/-! ### Bytes and code points -/

theorem byteOf_of_le {n : Nat} (h : n ≤ 255) : byteOf n = some (BitVec.ofNat 8 n) := by
  simp [byteOf, wellFormedByte, Nat.lt_succ_of_le h]

theorem byteOf_of_gt {n : Nat} (h : 255 < n) : byteOf n = none := by
  simp [byteOf, wellFormedByte, Nat.succ_le_of_lt h]

theorem setWidth_byte {n : Nat} (h : n ≤ 255) : (BitVec.ofNat 8 n).setWidth 16 = BitVec.ofNat 16 n :=
  BitVec.setWidth_ofNat_of_le_of_lt (by decide) (Nat.lt_succ_of_le h)

theorem mapM_byteOf_of_le {cs : List Nat} (h : ∀ c ∈ cs, c ≤ 255) :
    cs.mapM byteOf = some (cs.map (BitVec.ofNat 8)) := by
  induction cs with
  | nil => rfl
  | cons c cs ih =>
    obtain ⟨hc, hcs⟩ := List.forall_mem_cons.mp h
    simp [List.mapM_cons, byteOf_of_le hc, ih hcs]

theorem mapM_byteOf_of_gt {cs : List Nat} (h : ∃ c ∈ cs, 255 < c) : cs.mapM byteOf = none := by
  induction cs with
  | nil => simp at h
  | cons c cs ih =>
    obtain ⟨d, hd, hgt⟩ := h
    rcases List.mem_cons.mp hd with rfl | hd
    · simp [List.mapM_cons, byteOf_of_gt hgt]
    · simp [List.mapM_cons, ih ⟨d, hd, hgt⟩]

/-! ### The words of the byte commands -/

theorem bits_keyWr (b : Byte) : (encode (.keyWr b)).bits = 0x2000#16 ||| b.setWidth 16 := by
  rw [encode_keyWr]; rfl

theorem bits_msgWr (b : Byte) : (encode (.msgWr b)).bits = 0x4000#16 ||| b.setWidth 16 := by
  rw [encode_msgWr]; rfl

theorem bits_start (m : PadMode) : (encode (.start m)).bits = if m = .pkcs7 then 0x3000#16 else 0x3100#16 := by
  rw [encode_start]; rfl

theorem map_bits_keyWr (bs : List Byte) :
    (bs.map Instr.keyWr).map (fun i => (encode i).bits) = bs.map fun b => 0x2000#16 ||| b.setWidth 16 := by
  rw [List.map_map]
  exact List.map_congr_left fun b _ => bits_keyWr b

theorem map_bits_msgWr (bs : List Byte) :
    (bs.map Instr.msgWr).map (fun i => (encode i).bits) = bs.map fun b => 0x4000#16 ||| b.setWidth 16 := by
  rw [List.map_map]
  exact List.map_congr_left fun b _ => bits_msgWr b

theorem map_setWidth_bytes {cs : List Nat} (h : ∀ c ∈ cs, c ≤ 255) :
    (cs.map (BitVec.ofNat 8)).map (fun b => 0x4000#16 ||| b.setWidth 16) =
      cs.map fun c => 0x4000#16 ||| BitVec.ofNat 16 c := by
  rw [List.map_map]
  refine List.map_congr_left fun c hc => ?_
  rw [Function.comp_apply, setWidth_byte (h c hc)]

/-! ### The words of a line -/

theorem assemble_keyWr {n : Nat} (h : n ≤ 255) :
    (AsmLine.keyWr n).assemble = some [0x2000#16 ||| BitVec.ofNat 16 n] := by
  rw [assemble_of_commands (is := [.keyWr (BitVec.ofNat 8 n)]) (by simp [AsmLine.commands, byteOf_of_le h])]
  simp [bits_keyWr, setWidth_byte h]

theorem assemble_msgWr {n : Nat} (h : n ≤ 255) :
    (AsmLine.msgWr n).assemble = some [0x4000#16 ||| BitVec.ofNat 16 n] := by
  rw [assemble_of_commands (is := [.msgWr (BitVec.ofNat 8 n)]) (by simp [AsmLine.commands, byteOf_of_le h])]
  simp [bits_msgWr, setWidth_byte h]

theorem assemble_keyLoad (bs : List Byte) :
    (AsmLine.keyLoad bs).assemble = some (0x1000#16 :: bs.map fun b => 0x2000#16 ||| b.setWidth 16) := by
  rw [assemble_of_commands (l := .keyLoad bs) rfl, List.map_cons, map_bits_keyWr]
  rfl

theorem assemble_msgHex (bs : List Byte) :
    (AsmLine.msgHex bs).assemble = some (bs.map fun b => 0x4000#16 ||| b.setWidth 16) := by
  rw [assemble_of_commands (l := .msgHex bs) rfl, map_bits_msgWr]

theorem assemble_encryptHex (m : PadMode) (bs : List Byte) :
    (AsmLine.encryptHex m bs).assemble = some
      ((if m = .pkcs7 then 0x3000#16 else 0x3100#16) :: (bs.map fun b => 0x4000#16 ||| b.setWidth 16) ++
        [0x5000#16]) := by
  rw [assemble_of_commands (l := .encryptHex m bs) rfl, List.map_append, List.map_cons, map_bits_msgWr, bits_start]
  rfl

/-- A text whose characters are bytes is MSG_HEX or ENCRYPT_HEX of those bytes (R88). -/
theorem assemble_text_eq_hex (m : PadMode) {cs : List Nat} (h : ∀ c ∈ cs, c ≤ 255) :
    (AsmLine.msgText cs).assemble = (AsmLine.msgHex (cs.map (BitVec.ofNat 8))).assemble ∧
      (AsmLine.encrypt m cs).assemble = (AsmLine.encryptHex m (cs.map (BitVec.ofNat 8))).assemble := by
  simp [AsmLine.assemble, AsmLine.commands, mapM_byteOf_of_le h]

/-- Settles O7: a line's words are the encodings of its commands, and each kind of line has its `assemble` lemma. -/
theorem assembledLinesAreEncodedCommands : Obligations.AssembledLinesAreEncodedCommands := by
  refine ⟨?_, fun bs => ⟨assemble_keyLoad bs, assemble_msgHex bs⟩, ⟨rfl, rfl, rfl, rfl, rfl, rfl, rfl⟩,
    fun n hn => ⟨assemble_keyWr hn, assemble_msgWr hn⟩, ?_, assemble_encryptHex, ?_, ?_, ?_⟩
  · intro l is h
    have hcmd := wellFormedProgram_of_commands h
    exact ⟨hcmd, assemble_of_commands h,
      fun i hi => decodeCmd_of_encode (encode_of_isCommand (List.all_eq_true.mp hcmd i hi))⟩
  · intro m cs h
    obtain ⟨htext, hencrypt⟩ := assemble_text_eq_hex m h
    rw [htext, hencrypt, assemble_msgHex, assemble_encryptHex, map_setWidth_bytes h]
    exact ⟨rfl, rfl⟩
  · intro m cs h
    have hbytes := mapM_byteOf_of_gt h
    exact ⟨assemble_of_commands_none nofun (by rw [AsmLine.commands, hbytes]; rfl),
      assemble_of_commands_none nofun (by rw [AsmLine.commands, hbytes]; rfl)⟩
  · intro n hn
    have hbyte := byteOf_of_gt hn
    exact ⟨assemble_of_commands_none nofun (by rw [AsmLine.commands, hbyte]; rfl),
      assemble_of_commands_none nofun (by rw [AsmLine.commands, hbyte]; rfl)⟩
  · intro v
    exact ⟨fun h => if_pos h, fun h => if_neg (Nat.not_lt.mpr h)⟩

end Sys2Proof.Machine

/-! PROOFS. The seven host commands, one by one (R101 to R112): where a command is legal it is performed
(`exec_of_legal`), elsewhere in a quiescent engine it is recorded as illegal (`exec_of_illegal`); and the frame of the
commands (R111). -/

namespace Sys2Proof.Machine

variable {s t : State} {i : Instr} {w : CmdWord}

/-! ### A command in a quiescent engine -/

theorem exec_of_legal (hl : legalIn i s.fsm = true) : exec i s = .next (performed i s) :=
  exec_of_enabled (.inl hl)

/-- A command the table of R100 does not allow here records its own word (R225). -/
theorem exec_of_illegal (hw : encode i = .cmd w) (hq : s.fsm.quiescent = true) (hl : legalIn i s.fsm = false) :
    exec i s = .next { s with errWord := if s.errCmd then s.errWord else w, errCmd := true } := by
  have hraise : exec i s = .next (s.raise (.illegalCmd (encode i).bits)) := by
    cases i
    case echo | kexp | rinit | rsub | rshift | rmix | radd | emit => cases hw
    all_goals exact accept_of_illegal hq hl
  rw [hraise, hw]
  rfl

/-- Settles O10: in the five cases `legalIn` says no. -/
theorem commandLegalityTable : Obligations.CommandLegalityTable := by
  rintro s i w hw (⟨hf, hi⟩ | ⟨hf, hi⟩)
  · refine exec_of_illegal hw (by rw [hf]; rfl) ?_
    rw [hf]
    rcases hi with rfl | ⟨d, rfl⟩ <;> rfl
  · refine exec_of_illegal hw (by rw [hf]; rfl) ?_
    rw [hf]
    rcases hi with rfl | ⟨d, rfl⟩ | ⟨m, rfl⟩ <;> rfl

/-! ### Each command -/

/-- Settles O12: opcode 0 uses none of its low twelve bits, so the decoder refuses the words that set one. -/
theorem nopHasNoEffect : Obligations.NopHasNoEffect := by
  refine ⟨rfl, fun w hop => ?_, fun s hf => ?_⟩
  · obtain ⟨hnop, -⟩ := decoderFollowsItsCases w
    rw [hnop hop]
    simp
  · exact exec_of_legal (Fsm.quiescent_iff.mpr hf)

/-- Settles O13: the marks are a vector of `false`, and the key bytes are not written. -/
theorem keyClrForgetsKeyLength : Obligations.KeyClrForgetsKeyLength := by
  refine ⟨rfl, fun s hf => ?_, fun s hf => ?_⟩
  · refine ⟨_, exec_of_legal (by rw [hf]; rfl), rfl, fun j => ?_⟩
    simp [performed]
  · exact exec_of_illegal rfl (by rw [hf]; rfl) (by rw [hf]; rfl)

/-- Settles O14, by whether there is room for the byte. -/
theorem keyWrAppendsKeyByte : Obligations.KeyWrAppendsKeyByte := by
  refine ⟨encode_keyWr, fun s d hf h => ?_, fun s d hf h => ?_, fun s d hf => ?_⟩
  · have hbump : bump s.keyLen = ⟨s.keyLen.val + 1, by omega⟩ := Fin.ext (bump_val_of_lt (by omega))
    rw [exec_of_legal (by rw [hf]; rfl), performed, dif_pos h, hbump]
    rfl
  · rw [exec_of_legal (by rw [hf]; rfl), performed, dif_neg (Nat.not_lt.mpr h)]
  · exact exec_of_illegal (encode_keyWr d) (by rw [hf]; rfl) (by rw [hf]; rfl)

/-- Settles O15: the key length check fails, and raising `ErrKeyLength` sets its flag only. -/
theorem startRefusesWrongKeyLength : Obligations.StartRefusesWrongKeyLength := by
  refine ⟨encode_start, fun s m hf hk => ?_⟩
  rw [exec_of_legal (by rw [hf]; rfl), performed, if_neg hk]
  rfl

/-- START writes `w[0..3]` and leaves the other words (R105). -/
theorem startCall_w_head (m : PadMode) (c : Fin 4) : (s.startCall m).w[c.val] = keyWord s.key c :=
  (matchesExpand_startCall s m ⟨c.val, by omega⟩ c.isLt).trans (expand_head s.key c)

theorem getElem_set_head {α : Type} (v : Vector α 44) (a b c d : α) {k : Nat} (hk : k < 44) (h4 : 4 ≤ k) :
    ((((v.set 0 a).set 1 b).set 2 c).set 3 d)[k] = v[k] := by
  rw [Vector.getElem_set_ne _ _ (by omega), Vector.getElem_set_ne _ _ (by omega),
    Vector.getElem_set_ne _ _ (by omega), Vector.getElem_set_ne _ _ (by omega)]

theorem startCall_w_rest (m : PadMode) {k : Fin 44} (hk : 4 ≤ k.val) : (s.startCall m).w[k] = s.w[k] :=
  getElem_set_head s.w _ _ _ _ k.isLt hk

theorem startCall_wWr (m : PadMode) (k : Fin 44) :
    (s.startCall m).wWr[k] = if k.val < 4 then true else s.wWr[k] := by
  split
  next hk => exact writtenBelow_startCall m k hk
  next hk => exact getElem_set_head s.wWr _ _ _ _ k.isLt (Nat.not_lt.mp hk)

/-- Settles O16: the key length check passes, and `startCall` is read word by word. -/
theorem startBeginsCall : Obligations.StartBeginsCall := by
  refine ⟨rfl, rfl, fun s m hf hk => ?_, fun s m hf => ?_⟩
  · refine ⟨s.startCall m, ?_, rfl, startCall_w_head m, fun _ => startCall_w_rest m, startCall_wWr m⟩
    rw [exec_of_legal (by rw [hf]; rfl), performed, if_pos hk]
  · exact exec_of_illegal (encode_start m) (by rw [hf]; rfl) (by rw [hf]; rfl)

/-- Settles O17: the count after the byte says whether the block is complete. -/
theorem msgWrAppendsMessageByte : Obligations.MsgWrAppendsMessageByte := by
  refine ⟨encode_msgWr, fun s d hf h => ?_, fun s d hf hcnt => ?_, fun s d hf => ?_⟩
  · have hbump : bump s.msgCnt = ⟨s.msgCnt.val + 1, by omega⟩ := Fin.ext (bump_val_of_lt (by omega))
    have hpart : (⟨s.msgCnt.val + 1, by omega⟩ : Fin 17) ≠ 16 :=
      Fin.val_ne_iff.mp (Nat.ne_of_lt (Nat.succ_lt_succ h))
    rw [exec_of_legal (by rw [hf]; rfl), performed, appendMsg_of_lt (by omega), hbump, if_neg hpart]
    rfl
  · have h15 : s.msgCnt.val = 15 := congrArg Fin.val hcnt
    have hlt : s.msgCnt.val < 16 := by rw [h15]; decide
    have hbump : bump s.msgCnt = 16 := by rw [hcnt]; rfl
    rw [exec_of_legal (by rw [hf]; rfl), performed, appendMsg_of_lt hlt, hbump, if_pos rfl]
    simp only [State.beginBlock, State.writeSt, h15]
  · exact exec_of_illegal (encode_msgWr d) (by rw [hf]; rfl) (by rw [hf]; rfl)

/-- Settles O18: `padTailPkcs7` byte by byte, then the block is handed over. -/
theorem msgEndPadsPkcs7 : Obligations.MsgEndPadsPkcs7 := by
  refine ⟨rfl, fun s hf hpad => ?_, fun s hf => ?_⟩
  · refine ⟨{ s.padTailPkcs7 with msgCnt := 16 }.beginBlock true, ?_, rfl, fun j hj => ?_, fun j hj => ?_⟩
    · rw [exec_of_legal (by rw [hf]; rfl), performed, if_pos hpad]
    · simp [hj]
    · simp [Nat.not_lt.mpr hj, padByte]
  · exact exec_of_illegal rfl (by rw [hf]; rfl) (by rw [hf]; rfl)

/-- Settles O19: no block to pad, or `padTailX923` byte by byte. -/
theorem msgEndPadsX923 : Obligations.MsgEndPadsX923 := by
  refine ⟨rfl, fun s hf hpad hcnt => ?_, fun s hf hpad hcnt => ?_, fun s hf => ?_⟩
  · rw [exec_of_legal (by rw [hf]; rfl), performed, if_neg (by rw [hpad]; nofun), if_pos hcnt]
  · refine ⟨{ s.padTailX923 with msgCnt := 16 }.beginBlock true, ?_, rfl, fun j hj h15 => ?_,
      fun j hj h15 => ?_, ?_, ?_⟩
    · rw [exec_of_legal (by rw [hf]; rfl), performed, if_neg (by rw [hpad]; nofun), if_neg hcnt]
    · simp [hj, Nat.ne_of_lt h15]
    · simp [Nat.not_lt.mpr hj, Nat.ne_of_lt h15]
    · simp [padByte]
    · simp
  · exact exec_of_illegal rfl (by rw [hf]; rfl) (by rw [hf]; rfl)

/-- Settles O20: `clearErrors` is legal in both quiescent states. -/
theorem errClrClearsErrors : Obligations.ErrClrClearsErrors :=
  ⟨rfl, fun _ hf => exec_of_legal (Fsm.quiescent_iff.mpr hf)⟩

/-! ### The frame of the commands, by group of registers -/

/-- Only MSG_WR and MSG_END among the commands write the block and the controls of a block (R108 to R110). -/
theorem performed_block_of_command (hi : i.isCommand = true) (hwr : ¬ ∃ d, i = .msgWr d) (hend : i ≠ .msgEnd) :
    (performed i s).st = s.st ∧ (performed i s).stWr = s.stWr ∧ (performed i s).last = s.last ∧
      (performed i s).round = s.round := by
  cases i
  case msgWr d => exact absurd ⟨d, rfl⟩ hwr
  case msgEnd => exact absurd rfl hend
  case echo | kexp | rinit | rsub | rshift | rmix | radd | emit => cases hi
  all_goals
    simp only [performed]
    repeat' split
    all_goals simp

theorem appendMsg_getElem_ne (d : Byte) {j : Fin 16} (hj : j.val ≠ s.msgCnt.val) :
    (s.appendMsg d).st[j] = s.st[j] ∧ (s.appendMsg d).stWr[j] = s.stWr[j] := by
  unfold State.appendMsg
  split
  next hlt =>
    exact ⟨Vector.getElem_set_ne hlt j.isLt hj.symm, Vector.getElem_set_ne hlt j.isLt hj.symm⟩
  next => exact ⟨rfl, rfl⟩

/-- MSG_WR writes no byte of the block but `st[msg_cnt]` (R108). -/
theorem performed_msgWr_getElem_ne (d : Byte) {j : Fin 16} (hj : j.val ≠ s.msgCnt.val) :
    (performed (.msgWr d) s).st[j] = s.st[j] ∧ (performed (.msgWr d) s).stWr[j] = s.stWr[j] := by
  rw [performed]
  split
  · exact appendMsg_getElem_ne d hj
  · exact appendMsg_getElem_ne d hj

theorem performed_key_of_ne_keyWr (hwr : ¬ ∃ d, i = .keyWr d) : (performed i s).key = s.key := by
  cases i
  case keyWr d => exact absurd ⟨d, rfl⟩ hwr
  all_goals
    simp only [performed]
    repeat' split
    all_goals simp

/-- KEY_WR writes no byte of the key but `key[key_len]` (R103). -/
theorem performed_keyWr_getElem_ne (d : Byte) {j : Fin 16} (hj : j.val ≠ s.keyLen.val) :
    (performed (.keyWr d) s).key[j] = s.key[j] ∧ (performed (.keyWr d) s).keyWr[j] = s.keyWr[j] := by
  rw [performed]
  split
  next hlt =>
    exact ⟨Vector.getElem_set_ne hlt j.isLt hj.symm, Vector.getElem_set_ne hlt j.isLt hj.symm⟩
  next => exact ⟨rfl, rfl⟩

/-- Only START among the commands writes the schedule, the padding mode and `idx` (R105). -/
theorem performed_start_registers (hi : i.isCommand = true) (hst : ¬ ∃ m, i = .start m) :
    (performed i s).w = s.w ∧ (performed i s).wWr = s.wWr ∧ (performed i s).padMode = s.padMode ∧
      (performed i s).idx = s.idx := by
  cases i
  case start m => exact absurd ⟨m, rfl⟩ hst
  case echo | kexp | rinit | rsub | rshift | rmix | radd | emit => cases hi
  all_goals
    simp only [performed]
    repeat' split
    all_goals simp

/-- No command writes a word past `w[0..3]` (R105). -/
theorem performed_w_rest (hi : i.isCommand = true) {k : Fin 44} (hk : 4 ≤ k.val) :
    (performed i s).w[k] = s.w[k] ∧ (performed i s).wWr[k] = s.wWr[k] := by
  by_cases hst : ∃ m, i = .start m
  · obtain ⟨m, rfl⟩ := hst
    rw [performed]
    split
    · exact ⟨startCall_w_rest m hk, by rw [startCall_wWr, if_neg (Nat.not_lt.mpr hk)]⟩
    · exact ⟨rfl, rfl⟩
  · obtain ⟨hw, hwWr, -⟩ := performed_start_registers (s := s) hi hst
    rw [hw, hwWr]
    exact ⟨rfl, rfl⟩

/-- Only START, MSG_WR and MSG_END among the commands write `msg_cnt` and the controller state. -/
theorem performed_control (hi : i.isCommand = true) (hst : ¬ ∃ m, i = .start m) (hwr : ¬ ∃ d, i = .msgWr d)
    (hend : i ≠ .msgEnd) : (performed i s).msgCnt = s.msgCnt ∧ (performed i s).fsm = s.fsm := by
  cases i
  case start m => exact absurd ⟨m, rfl⟩ hst
  case msgWr d => exact absurd ⟨d, rfl⟩ hwr
  case msgEnd => exact absurd rfl hend
  case echo | kexp | rinit | rsub | rshift | rmix | radd | emit => cases hi
  all_goals
    simp only [performed]
    repeat' split
    all_goals simp

/-- No command touches the FIFO or `kx_i`. -/
theorem performed_output_of_command (hi : i.isCommand = true) :
    (performed i s).outq = s.outq ∧ (performed i s).kxI = s.kxI := by
  cases i
  case echo | kexp | rinit | rsub | rshift | rmix | radd | emit => cases hi
  all_goals
    simp only [performed]
    repeat' split
    all_goals simp

theorem performed_done_of_command (hi : i.isCommand = true) (hst : ¬ ∃ m, i = .start m) (hend : i ≠ .msgEnd) :
    (performed i s).done = s.done := by
  rcases performed_done i s with h | ⟨-, -, ⟨rfl, -⟩ | ⟨rfl, -⟩⟩ | ⟨-, hs, -⟩
  · exact h
  · cases hi
  · exact absurd rfl hend
  · exact absurd hs hst

theorem performed_errKeyLen_of_ne (hst : ¬ ∃ m, i = .start m) (hclr : i ≠ .errClr) :
    (performed i s).errKeyLen = s.errKeyLen := by
  rcases performed_errKeyLen (s := s) hclr with h | ⟨hs, -⟩
  · exact h
  · exact absurd hs hst

/-- A recorded illegal word that changed a flag or ERRINFO is the first one since the last clear (R42, R225). -/
theorem raise_illegalCmd_of_change
    (h : (s.raise (.illegalCmd w)).errCmd ≠ s.errCmd ∨ (s.raise (.illegalCmd w)).errWord ≠ s.errWord) :
    s.raise (.illegalCmd w) = { s with errCmd := true, errWord := w } := by
  cases hc : s.errCmd
  · simp [State.raise, hc]
  · simp [hc] at h

/-- Settles O21: a command that is not performed changes nothing or records its own word, and one that is performed
keeps each group of registers as the lemmas above say. -/
theorem commandFrame : Obligations.CommandFrame := by
  intro s t i w hw he
  have hi := isCommand_of_encode hw
  rcases exec_next he with rfl | ⟨-, -, w', hw', rfl⟩ | ⟨-, rfl⟩
  · simp
  · cases hw.symm.trans hw'
    simpa using fun _ => raise_illegalCmd_of_change
  · obtain ⟨hdepth, hhost, hreceived, hctr⟩ := exec_env he
    obtain ⟨houtq, hkx⟩ := performed_output_of_command (s := s) hi
    refine ⟨houtq, hkx, hdepth, hhost, hreceived, hctr, performed_block_of_command hi, ?_,
      performed_key_of_ne_keyWr, ?_, ?_, performed_start_registers hi, fun k => performed_w_rest hi,
      performed_control hi, performed_done_of_command hi, performed_errKeyLen_of_ne, ?_⟩
    · rintro d rfl j hj
      exact performed_msgWr_getElem_ne d hj
    · intro hwr hclr
      obtain ⟨hmarks, hlen⟩ := performed_key (s := s) hclr (not_exists.mp hwr)
      exact ⟨hlen, hmarks⟩
    · rintro d rfl j hj
      exact performed_keyWr_getElem_ne d hj
    · intro hclr hchange
      obtain ⟨hcmd, hword⟩ := performed_errCmd (s := s) hclr
      exact (hchange.elim (absurd hcmd) (absurd hword))

end Sys2Proof.Machine

/-! PROOFS. Runs of many steps. The host and the FIFO are kept apart from the engine's registers (`State.engine`): an
engine that computes pushes nothing whatever the host does but reset (`Coasts`), and the key schedule and the rounds of
a block are such runs (R146, R187, R188). -/

namespace Sys2Proof.Machine

variable {s t u : State} {i : Instr} {w : CmdWord} {ws : List CmdWord} {b k m n : Nat}

/-! ### Composing runs -/

theorem runSteps_one (h : step s = .next t) : runSteps 1 s = .next t := by
  simp only [runSteps, h]

theorem runSteps_trans (hm : runSteps m s = .next t) (hn : runSteps n t = .next u) :
    runSteps (m + n) s = .next u := by
  induction m generalizing s with
  | zero =>
    cases hm
    rwa [Nat.zero_add]
  | succ m ih =>
    obtain ⟨v, hv⟩ := step_isNext s
    simp only [runSteps, hv] at hm
    simp only [Nat.succ_add, runSteps, hv]
    exact ih hm

/-- Some number of steps leads from `s` to `t`. -/
def Reaches (s t : State) : Prop :=
  ∃ n, runSteps n s = .next t

theorem Reaches.refl (s : State) : Reaches s s :=
  ⟨0, rfl⟩

theorem Reaches.of_step (h : step s = .next t) : Reaches s t :=
  ⟨1, runSteps_one h⟩

theorem Reaches.trans : Reaches s t → Reaches t u → Reaches s u := by
  rintro ⟨m, hm⟩ ⟨n, hn⟩
  exact ⟨m + n, runSteps_trans hm hn⟩

/-! ### The engine without the FIFO and the host -/

/-- The registers of the engine, with the FIFO and the host's side blanked out. -/
def State.engine (s : State) : State :=
  { s with outq := [], received := [], host := [] }

/-- A register is read off the engine's registers. -/
theorem State.reg_of_engine {α : Type} {x : α} (f : State → α) (h : t.engine = u)
    (hf : ∀ v : State, f v.engine = f v) (hx : f u = x) : f t = x := by
  rw [← hf t, h, hx]

@[simp] theorem engine_endCycle (s t : State) : (s.endCycle t).engine = t.engine := by
  unfold State.endCycle; split <;> rfl

@[simp] theorem endCycle_outDepth (s t : State) : (s.endCycle t).outDepth = t.outDepth := by
  unfold State.endCycle; split <;> rfl

theorem endCycle_outq_length_le (s t : State) : (s.endCycle t).outq.length ≤ t.outq.length := by
  rw [endCycle_outq]
  split <;> simp

theorem State.noReset.endCycle (h : s.noReset) (t : State) : (s.endCycle t).noReset :=
  hostAfter_noReset h

/-- In a busy state the step performs the micro-operation of that state (R86). -/
theorem step_of_microOp (hr : s.noReset) (hm : s.fsm.microOp = some i) :
    step s = .next (s.endCycle (performed i s)) := by
  rw [step_of_fetch_run (ports_rst_of_noReset hr) (fetch_of_micro hm), exec_of_enabled (.inr hm)]
  rfl

theorem Fsm.quiescent_of_microOp {f : Fsm} (h : f.microOp = some i) : f.quiescent = false := by
  cases f
  case idle | accept => cases h
  all_goals rfl

/-- KEXP and the round micro-operations: those that push nothing. -/
def Fsm.computes : Fsm → Bool
  | .kexp | .rinit | .rsub | .rshift | .rmix | .radd => true
  | .idle | .echo | .accept | .emit => false

theorem engine_performed {f : Fsm} (hc : f.computes = true) (hm : f.microOp = some i) :
    (performed i s).engine = performed i s.engine := by
  cases f
  case idle | echo | accept | emit => cases hc
  case rinit | rsub | rshift | rmix =>
    cases hm
    rfl
  case kexp | radd =>
    cases hm
    exact apply_ite State.engine _ _ _

theorem performed_outq_of_computes {f : Fsm} (hc : f.computes = true) (hm : f.microOp = some i) :
    (performed i s).outq = s.outq := by
  refine performed_outq_of_ne ?_ ?_
  · rintro rfl
    cases runsIn_of_microOp hm
    cases hc
  · rintro rfl
    cases runsIn_of_microOp hm
    cases hc

/-! ### A host that streams words and pops -/

/-- The host streams the words `ws` and then only pops: for 200 cycles, of which at least `b` are left once `ws` is
empty. The FIFO has a place, and at most one entry waits in it for the pop of this cycle. -/
structure State.Driven (s : State) (ws : List CmdWord) (b : Nat) : Prop where
  depth_pos : 1 ≤ s.outDepth
  outq_le_one : s.outq.length ≤ 1
  host : ∃ k, (ws = [] → b ≤ k) ∧ (ws ≠ [] → 200 ≤ k) ∧ s.host = ws.map streamCycle ++ List.replicate k popCycle

theorem State.Driven.noReset (h : s.Driven ws b) : s.noReset := by
  obtain ⟨k, -, -, hk⟩ := h.host
  intro c hc
  rw [hk, List.mem_append, List.mem_map] at hc
  rcases hc with ⟨w, -, rfl⟩ | hc
  · rfl
  · rw [List.eq_of_mem_replicate hc]
    rfl

theorem State.Driven.mono (h : s.Driven ws b) (hkb : k ≤ b) : s.Driven ws k := by
  obtain ⟨c, hb, hc, hh⟩ := h.host
  exact ⟨h.depth_pos, h.outq_le_one, c, fun hw => Nat.le_trans hkb (hb hw), hc, hh⟩

/-- While words are left, no pop cycle is used up. -/
theorem State.Driven.of_ne_nil (h : s.Driven ws b) (hw : ws ≠ []) (k : Nat) : s.Driven ws k := by
  obtain ⟨c, -, hc, hh⟩ := h.host
  exact ⟨h.depth_pos, h.outq_le_one, c, fun h0 => absurd h0 hw, hc, hh⟩

theorem State.Driven.host_nil (h : s.Driven [] (b + 1)) :
    ∃ k, b ≤ k ∧ s.host = popCycle :: List.replicate k popCycle := by
  obtain ⟨k, hb, -, hk⟩ := h.host
  have hpos : b + 1 ≤ k := hb rfl
  obtain ⟨j, rfl⟩ : ∃ j, k = j + 1 := ⟨k - 1, by omega⟩
  exact ⟨j, Nat.le_of_succ_le_succ hpos, hk⟩

theorem State.Driven.host_cons (h : s.Driven (w :: ws) b) :
    ∃ k, 200 ≤ k ∧ s.host = streamCycle w :: (ws.map streamCycle ++ List.replicate k popCycle) := by
  obtain ⟨k, -, hk, hhost⟩ := h.host
  exact ⟨k, hk nofun, hhost⟩

theorem State.Driven.outReady (h : s.Driven ws (b + 1)) : s.ports.outReady = true := by
  cases ws with
  | nil =>
    obtain ⟨k, -, hk⟩ := h.host_nil
    simp [State.ports, hk, popCycle]
  | cons w ws =>
    obtain ⟨k, -, hk⟩ := h.host_cons
    simp [State.ports, hk, streamCycle]

/-- A pop is due whenever an entry waits, so of what is in the FIFO only what the cycle pushes is left. -/
theorem State.Driven.endCycle_outq (h : s.Driven ws (b + 1)) (hu : u.outq.length ≤ s.outq.length + n) :
    (s.endCycle u).outq.length ≤ n := by
  have hone := h.outq_le_one
  rw [Machine.endCycle_outq]
  split
  · rw [List.length_tail]
    omega
  next hp =>
    have hnil : s.outq = [] := Classical.byContradiction fun hne =>
      hp (pops_iff.mpr ⟨hne, ports_rst_of_noReset h.noReset, h.outReady⟩)
    rwa [hnil, List.length_nil, Nat.zero_add] at hu

/-- A busy engine leaves a streamed word where it is, and uses up one pop cycle once the words are gone (R260). -/
theorem State.Driven.endCycle (h : s.Driven ws (b + 1)) (hq : s.fsm.quiescent = false)
    (hd : u.outDepth = s.outDepth) (hu : u.outq.length ≤ s.outq.length + 1) : (s.endCycle u).Driven ws b := by
  refine ⟨?_, h.endCycle_outq hu, ?_⟩
  · rw [endCycle_outDepth, hd]
    exact h.depth_pos
  · rw [endCycle_host, State.hostAfter]
    cases ws with
    | nil =>
      obtain ⟨k, hb, hk⟩ := h.host_nil
      exact ⟨k, fun _ => hb, fun hw => absurd rfl hw, by simp [State.ports, hk, popCycle]⟩
    | cons w ws =>
      obtain ⟨k, hc, hk⟩ := h.host_cons
      exact ⟨k, nofun, fun _ => hc, by simp [State.ports, State.cmdReady, hk, hq, streamCycle]⟩

/-! ### A busy engine that pushes nothing -/

/-- `n` steps of a busy engine that push nothing: the stream stays, the FIFO only empties, and the host goes on. -/
structure Coasts (n : Nat) (s t : State) : Prop where
  run : runSteps n s = .next t
  noReset : t.noReset
  stream : t.stream = s.stream
  driven : ∀ ws b, s.Driven ws (b + n) → t.Driven ws b

theorem Coasts.refl (hr : s.noReset) : Coasts 0 s s :=
  ⟨rfl, hr, rfl, fun _ _ h => h⟩

theorem Coasts.trans (h : Coasts m s t) (h' : Coasts n t u) : Coasts (m + n) s u := by
  refine ⟨runSteps_trans h.run h'.run, h'.noReset, h'.stream.trans h.stream, fun ws b hd => ?_⟩
  exact h'.driven ws b (h.driven ws (b + n) (by rwa [Nat.add_assoc, Nat.add_comm n m]))

theorem coasts_microOp (hr : s.noReset) (hc : s.fsm.computes = true) (hm : s.fsm.microOp = some i) :
    ∃ t, Coasts 1 s t ∧ t.engine = performed i s.engine := by
  have hengine := engine_performed (s := s) hc hm
  have houtq : (performed i s).outq = s.outq := performed_outq_of_computes hc hm
  obtain ⟨hdepth, -, hreceived, -⟩ := exec_env (exec_of_enabled (.inr hm))
  refine ⟨s.endCycle (performed i s), ⟨runSteps_one (step_of_microOp hr hm), hr.endCycle _, ?_, ?_⟩, ?_⟩
  · rw [endCycle_stream, State.stream, State.stream, houtq, hreceived]
  · intro ws b hd
    exact hd.endCycle (Fsm.quiescent_of_microOp hm) hdepth (by rw [houtq]; exact Nat.le_succ _)
  · rw [engine_endCycle, hengine]

/-- The controller selects the micro-operations `is` one after the other, and none of them pushes. -/
def Selects : List Instr → State → Prop
  | [], _ => True
  | i :: is, s => s.fsm.computes = true ∧ s.fsm.microOp = some i ∧ Selects is (performed i s)

theorem coasts_of_selects {is : List Instr} (hr : s.noReset) (h : Selects is s.engine) :
    ∃ t, Coasts is.length s t ∧ t.engine = is.foldl (fun v i => performed i v) s.engine := by
  induction is generalizing s with
  | nil => exact ⟨s, .refl hr, rfl⟩
  | cons i is ih =>
    obtain ⟨hc, hm, hrest⟩ := h
    obtain ⟨t, ht, hte⟩ := coasts_microOp hr hc hm
    obtain ⟨u, hu, hue⟩ := ih ht.noReset (by rwa [hte])
    refine ⟨u, ?_, by rw [hue, hte]; rfl⟩
    rw [List.length_cons, Nat.add_comm]
    exact ht.trans hu

/-! ### The block run -/

/-- One full round is four micro-steps (R187). -/
theorem coasts_fullRound (hr : s.noReset) (hf : s.fsm = .rsub) (hround : s.round.val < 10) :
    ∃ t, Coasts 4 s t ∧
      t.engine = { s.engine with st := fullRound s.w s.st s.round, round := bump s.round, fsm := .rsub } := by
  have hsel : Selects [.rsub, .rshift, .rmix, .radd] s.engine := by
    simp [Selects, performed, State.engine, hf, hround, Fsm.computes, Fsm.microOp]
  obtain ⟨t, ht, hte⟩ := coasts_of_selects hr hsel
  refine ⟨t, ht, hte.trans ?_⟩
  simp [performed, State.engine, State.transformSt, State.goto, fullRound, hround]

/-- The full rounds `rs`, counted from the register `round` on. -/
theorem coasts_fullRounds {rs : List (Fin 11)} (hr : s.noReset) (hf : s.fsm = .rsub)
    (hrs : rs.map Fin.val = List.range' s.round.val rs.length) (hround : s.round.val + rs.length ≤ 10) :
    ∃ t, Coasts (4 * rs.length) s t ∧ t.round.val = s.round.val + rs.length ∧
      t.engine = { s.engine with st := rs.foldl (fullRound s.w) s.st, round := t.round, fsm := .rsub } := by
  induction rs generalizing s with
  | nil => exact ⟨s, .refl hr, rfl, by simp [State.engine, hf]⟩
  | cons r rs ih =>
    rw [List.length_cons] at hround
    rw [List.map_cons, List.length_cons, List.range'_succ, List.cons.injEq] at hrs
    obtain ⟨hhead, htail⟩ := hrs
    cases Fin.ext hhead
    obtain ⟨t, ht, hte⟩ := coasts_fullRound hr hf (by omega)
    have htround : t.round = bump s.round := State.reg_of_engine State.round hte (fun _ => rfl) rfl
    have hval : t.round.val = s.round.val + 1 := by rw [htround, bump_val_of_lt (by omega)]
    obtain ⟨u, hu, huround, hue⟩ := ih ht.noReset (State.reg_of_engine State.fsm hte (fun _ => rfl) rfl)
      (by rwa [hval]) (by omega)
    have htw : t.w = s.w := State.reg_of_engine State.w hte (fun _ => rfl) rfl
    have htst : t.st = fullRound s.w s.st s.round := State.reg_of_engine State.st hte (fun _ => rfl) rfl
    refine ⟨u, ?_, by rw [huround, hval, List.length_cons]; omega, ?_⟩
    · have hlen : 4 * (s.round :: rs).length = 4 + 4 * rs.length := by rw [List.length_cons]; omega
      rw [hlen]
      exact ht.trans hu
    · rw [hue, hte, htw, htst, List.foldl_cons]

/-- The last round has no MixColumns (R169). -/
theorem coasts_finalRound (hr : s.noReset) (hf : s.fsm = .rsub) (hround : s.round = 10) :
    ∃ t, Coasts 3 s t ∧
      t.engine = { s.engine with st := addRoundKey (shiftRows (subBytes s.st)) s.w 10, idx := 0, fsm := .emit } := by
  have hlast : ¬ s.round.val < 10 := by rw [hround]; decide
  have hsel : Selects [.rsub, .rshift, .radd] s.engine := by
    simp [Selects, performed, State.engine, hf, hlast, Fsm.computes, Fsm.microOp]
  obtain ⟨t, ht, hte⟩ := coasts_of_selects hr hsel
  refine ⟨t, ht, hte.trans ?_⟩
  rw [← hround]
  simp [performed, State.engine, State.transformSt, State.goto, hlast]

theorem coasts_rinit (hr : s.noReset) (hf : s.fsm = .rinit) :
    ∃ t, Coasts 1 s t ∧ t.engine = { s.engine with st := addRoundKey s.st s.w 0, round := 1, fsm := .rsub } := by
  obtain ⟨t, ht, hte⟩ := coasts_microOp hr (by rw [hf]; rfl) (by rw [hf]; rfl)
  refine ⟨t, ht, hte.trans ?_⟩
  simp only [performed, State.engine, State.transformSt]

/-- From RINIT, forty micro-steps leave the cipher of the block in `st` and go on to EMIT (R187, R188). -/
theorem coasts_block (hr : s.noReset) (hf : s.fsm = .rinit) :
    ∃ t, Coasts 40 s t ∧ t.engine = { s.engine with st := cipher s.st s.w, round := 10, idx := 0, fsm := .emit } := by
  obtain ⟨t, ht, hte⟩ := coasts_rinit hr hf
  have htround : t.round = 1 := State.reg_of_engine State.round hte (fun _ => rfl) rfl
  have htst : t.st = addRoundKey s.st s.w 0 := State.reg_of_engine State.st hte (fun _ => rfl) rfl
  have htw : t.w = s.w := State.reg_of_engine State.w hte (fun _ => rfl) rfl
  obtain ⟨u, hu, huround, hue⟩ := coasts_fullRounds (rs := [1, 2, 3, 4, 5, 6, 7, 8, 9]) ht.noReset
    (State.reg_of_engine State.fsm hte (fun _ => rfl) rfl) (by rw [htround]; rfl) (by rw [htround]; decide)
  rw [htround] at huround
  have huround : u.round = 10 := Fin.ext huround
  have hust : u.st = [1, 2, 3, 4, 5, 6, 7, 8, 9].foldl (fullRound s.w) (addRoundKey s.st s.w 0) := by
    rw [← htst, ← htw]
    exact State.reg_of_engine State.st hue (fun _ => rfl) rfl
  have huw : u.w = s.w := (State.reg_of_engine State.w hue (fun _ => rfl) rfl).trans htw
  obtain ⟨v, hv, hve⟩ := coasts_finalRound hu.noReset (State.reg_of_engine State.fsm hue (fun _ => rfl) rfl) huround
  refine ⟨v, (ht.trans hu).trans hv, ?_⟩
  rw [hve, hust, huw, hue, huround, hte, cipher]

/-! ### The key schedule -/

/-- A register file that matches `expand(key)` in all 44 words is its schedule. -/
theorem eq_scheduleOfList_of_matches {key : Block} {w : Schedule} (h : MatchesExpand key w 44) :
    w = scheduleOfList (expand key) := by
  refine Vector.ext fun k hk => ?_
  rw [scheduleOfList, Vector.getElem_ofFn]
  exact h ⟨k, hk⟩ hk

/-- The word KEXP writes (R146). -/
def State.nextWord (s : State) : Word :=
  scheduleWord s.kxI.val (wordBefore s.w s.kxI 1) (wordBefore s.w s.kxI 4)

theorem coasts_kexp_more (hr : s.noReset) (hf : s.fsm = .kexp) (hk : s.kxI.val < 43) :
    ∃ t, Coasts 1 s t ∧ t.engine =
      { s.engine with w := s.w.set s.kxI s.nextWord, wWr := s.wWr.set s.kxI true, kxI := bump s.kxI } := by
  obtain ⟨t, ht, hte⟩ := coasts_microOp hr (by rw [hf]; rfl) (by rw [hf]; rfl)
  refine ⟨t, ht, hte.trans ?_⟩
  simp [performed, State.engine, State.writeW, State.nextWord, Nat.ne_of_lt hk]

theorem coasts_kexp_last (hr : s.noReset) (hf : s.fsm = .kexp) (hk : s.kxI.val = 43) :
    ∃ t, Coasts 1 s t ∧ t.engine =
      { s.engine with w := s.w.set s.kxI s.nextWord, wWr := s.wWr.set s.kxI true, fsm := .accept } := by
  obtain ⟨t, ht, hte⟩ := coasts_microOp hr (by rw [hf]; rfl) (by rw [hf]; rfl)
  refine ⟨t, ht, hte.trans ?_⟩
  simp [performed, State.engine, State.writeW, State.goto, State.nextWord, hk]

/-- KEXP computes the words that are left, one a step, and goes on to ACCEPT (R146, R147). -/
theorem coasts_kexp (hr : s.noReset) (hf : s.fsm = .kexp) (hk : 4 ≤ s.kxI.val) (hn : s.kxI.val + n = 43)
    (hw : MatchesExpand s.key s.w s.kxI.val) :
    ∃ t, Coasts (n + 1) s t ∧ t.engine =
      { s.engine with w := scheduleOfList (expand s.key), wWr := t.wWr, kxI := 43, fsm := .accept } := by
  have hnext : MatchesExpand s.key (s.w.set s.kxI s.nextWord) (s.kxI.val + 1) := hw.set_kexp hk
  induction n generalizing s with
  | zero =>
    obtain ⟨t, ht, hte⟩ := coasts_kexp_last hr hf hn
    have htwWr : t.wWr = s.wWr.set s.kxI true := State.reg_of_engine State.wWr hte (fun _ => rfl) rfl
    have hkx : s.kxI = 43 := Fin.ext hn
    refine ⟨t, ht, ?_⟩
    rw [hte, htwWr, eq_scheduleOfList_of_matches (hnext.mono (by omega))]
    simp only [State.engine, hkx]
  | succ n ih =>
    obtain ⟨t, ht, hte⟩ := coasts_kexp_more hr hf (by omega)
    have htkey : t.key = s.key := State.reg_of_engine State.key hte (fun _ => rfl) rfl
    have htw : t.w = s.w.set s.kxI s.nextWord := State.reg_of_engine State.w hte (fun _ => rfl) rfl
    have htkx : t.kxI = bump s.kxI := State.reg_of_engine State.kxI hte (fun _ => rfl) rfl
    have htkx : t.kxI.val = s.kxI.val + 1 := by rw [htkx, bump_val_of_lt (by omega)]
    have htm : MatchesExpand t.key t.w t.kxI.val := by rwa [htkey, htw, htkx]
    obtain ⟨u, hu, hue⟩ := ih ht.noReset (State.reg_of_engine State.fsm hte (fun _ => rfl) hf) (by omega) (by omega) htm
      (htm.set_kexp (by omega))
    refine ⟨u, ?_, ?_⟩
    · rw [Nat.add_comm (n + 1)]
      exact ht.trans hu
    · rw [hue, hte, htkey]

end Sys2Proof.Machine

/-! PROOFS. ECHO and EMIT put out the hex digits that remain, high nibble first (R200 to R204): one push a step with
room for all of them, and at most two steps a digit with a host that pops every entry, whatever the depth (R205). -/

namespace Sys2Proof.Machine

variable {s t u : State} {i : Instr} {ws : List CmdWord} {b n : Nat}

/-! ### The digits of sixteen bytes -/

/-- Digit `k` of sixteen bytes is that of nibble `k` (R201, R203). -/
theorem hexBlock_eq (bytes : Block) : hexBlock bytes = (List.finRange 32).map fun k => hexDigit (nibbleAt bytes k) := by
  have hlist : bytes.toList = List.ofFn fun j : Fin 16 => bytes[j] :=
    List.ext_getElem (by rw [Vector.length_toList, List.length_ofFn]) fun j hj _ => by
      rw [List.getElem_ofFn, Vector.getElem_toList]; rfl
  rw [hexBlock, hlist]
  rfl

theorem length_hexEntries (tag : Tag) (bytes : Block) : (hexEntries tag bytes).length = 32 := by
  simp [hexEntries, hexBlock_eq]

theorem drop_hexEntries (tag : Tag) (bytes : Block) (k : Fin 32) :
    (hexEntries tag bytes).drop k.val =
      { tag := tag, char := hexDigit (nibbleAt bytes k) } :: (hexEntries tag bytes).drop (k.val + 1) := by
  rw [List.drop_eq_getElem_cons (by rw [length_hexEntries]; exact k.isLt)]
  simp [hexEntries, hexBlock_eq]

/-! ### One digit -/

/-- The two controller states that push. -/
def State.Outputs (s : State) : Prop :=
  s.fsm = .echo ∨ s.fsm = .emit

/-- The entries ECHO or EMIT still has to push: its register in hex, from nibble `idx` on (R202, R204). -/
def State.remaining (s : State) : List OutEntry :=
  match s.fsm with
  | .echo => (hexEntries .keyEcho s.key).drop s.idx.val
  | .emit => (hexEntries .ciphertext s.st).drop s.idx.val
  | .idle | .kexp | .accept | .rinit | .rsub | .rshift | .rmix | .radd => []

/-- Where ECHO or EMIT goes from its last push (R201, R203). -/
def State.afterOutput (s : State) : State :=
  match s.fsm with
  | .echo => { s with kxI := 4, fsm := .kexp }
  | .emit =>
    if s.last then { s with msgCnt := 0, done := true, fsm := .idle } else { s with msgCnt := 0, fsm := .accept }
  | .idle | .kexp | .accept | .rinit | .rsub | .rshift | .rmix | .radd => s

theorem State.Outputs.busy (hf : s.Outputs) : s.fsm.quiescent = false := by
  rcases hf with hf | hf <;> rw [hf] <;> rfl

theorem afterOutput_io (s : State) :
    s.afterOutput.outq = s.outq ∧ s.afterOutput.received = s.received ∧ s.afterOutput.outDepth = s.outDepth ∧
      s.afterOutput.engine = s.engine.afterOutput := by
  cases hf : s.fsm
  case emit => cases hl : s.last <;> simp [State.afterOutput, State.engine, hf, hl]
  all_goals simp [State.afterOutput, State.engine, hf]

/-- The entry ECHO or EMIT pushes next. -/
def State.nextEntry (s : State) : OutEntry :=
  match s.fsm with
  | .echo => { tag := .keyEcho, char := hexDigit (nibbleAt s.key s.idx) }
  | .idle | .kexp | .accept | .rinit | .rsub | .rshift | .rmix | .radd | .emit =>
    { tag := .ciphertext, char := hexDigit (nibbleAt s.st s.idx) }

/-- `s` with the next entry pushed. -/
def State.pushNext (s : State) : State :=
  { s with outq := s.outq ++ [s.nextEntry] }

/-- `s` with the next entry pushed and the following nibble selected. -/
def State.pushMore (s : State) : State :=
  { s.pushNext with idx := bump s.idx }

theorem pushNext_stream (s : State) : s.pushNext.stream = s.stream ++ [s.nextEntry] := by
  rw [State.stream, State.stream, List.append_assoc]
  rfl

theorem pushMore_stream (s : State) : s.pushMore.stream = s.stream ++ [s.nextEntry] :=
  pushNext_stream s

theorem pushMore_outq_length (s : State) : s.pushMore.outq.length = s.outq.length + 1 :=
  List.length_append

theorem step_output_more (hf : s.Outputs) (hr : s.noReset) (hroom : s.outq.length < s.outDepth)
    (hidx : s.idx.val < 31) : step s = .next (s.endCycle s.pushMore) := by
  have hpush : s.canPush = true := decide_eq_true hroom
  have hne : s.idx ≠ 31 := Fin.val_ne_iff.mp (Nat.ne_of_lt hidx)
  rcases hf with hf | hf
  all_goals
    rw [step_of_microOp hr (by rw [hf]; rfl), performed, if_pos hpush, if_neg hne]
    simp only [State.pushMore, State.pushNext, State.nextEntry, State.pushOut, hf]

theorem step_output_last (hf : s.Outputs) (hr : s.noReset) (hroom : s.outq.length < s.outDepth)
    (hidx : s.idx = 31) : step s = .next (s.endCycle s.pushNext.afterOutput) := by
  have hpush : s.canPush = true := decide_eq_true hroom
  rcases hf with hf | hf
  all_goals
    rw [step_of_microOp hr (by rw [hf]; rfl), performed, if_pos hpush, if_pos hidx]
    simp only [State.pushNext, State.nextEntry, State.pushOut, State.afterOutput, hf]

/-- A held step: the FIFO is full, and only the host acts (R205). -/
theorem step_output_full (hf : s.Outputs) (hr : s.noReset) (hfull : s.outDepth ≤ s.outq.length) :
    step s = .next (s.endCycle s) := by
  have hpush : s.canPush = false := decide_eq_false (Nat.not_lt.mpr hfull)
  rcases hf with hf | hf
  all_goals
    rw [step_of_microOp hr (by rw [hf]; rfl), performed, hpush]
    rfl

theorem remaining_more (hf : s.Outputs) (hidx : s.idx.val < 31) :
    s.remaining = s.nextEntry :: s.pushMore.remaining := by
  have hbump := bump_val_of_lt hidx
  rcases hf with hf | hf
  all_goals
    simp only [State.remaining, State.nextEntry, State.pushMore, State.pushNext, hf]
    rw [drop_hexEntries, hbump]

theorem remaining_last (hf : s.Outputs) (hidx : s.idx = 31) : s.remaining = [s.nextEntry] := by
  rcases hf with hf | hf
  all_goals
    simp only [State.remaining, State.nextEntry, hf]
    rw [drop_hexEntries, List.drop_eq_nil_of_le (by rw [length_hexEntries, hidx]; decide)]

/-! ### All the digits that remain -/

/-- `t` is `s` after its remaining digits are put out. -/
structure OutputDone (s t : State) : Prop where
  engine : t.engine = { s.engine with idx := 31 }.afterOutput
  stream : t.stream = s.stream ++ s.remaining

theorem outputDone_last (hf : s.Outputs) (hidx : s.idx = 31) : OutputDone s (s.endCycle s.pushNext.afterOutput) := by
  obtain ⟨houtq, hreceived, -, hengine⟩ := afterOutput_io s.pushNext
  constructor
  · rw [engine_endCycle, hengine, ← hidx]
    rfl
  · rw [endCycle_stream, remaining_last hf hidx, ← pushNext_stream, State.stream, State.stream, hreceived, houtq]

/-- The digits that remain are a matter of the engine's registers. -/
theorem remaining_of_engine (h : t.engine = u.engine) : t.remaining = u.remaining :=
  show t.engine.remaining = u.engine.remaining by rw [h]

theorem OutputDone.of_more (hf : s.Outputs) (hidx : s.idx.val < 31) (h : OutputDone (s.endCycle s.pushMore) t) :
    OutputDone s t := by
  constructor
  · rw [h.engine, engine_endCycle]
    rfl
  · rw [h.stream, endCycle_stream, remaining_of_engine (engine_endCycle s s.pushMore), pushMore_stream,
      remaining_more hf hidx, List.append_assoc]
    rfl

theorem OutputDone.of_full (h : OutputDone (s.endCycle s) t) : OutputDone s t :=
  ⟨by rw [h.engine, engine_endCycle],
    by rw [h.stream, endCycle_stream, remaining_of_engine (engine_endCycle s s)]⟩

theorem outputs_endCycle (hf : t.Outputs) : (s.endCycle t).Outputs := by
  rwa [State.Outputs, endCycle_fsm]

theorem pushMore_idx (hidx : s.idx.val < 31) : (s.endCycle s.pushMore).idx.val = s.idx.val + 1 := by
  have h : (s.endCycle s.pushMore).idx = bump s.idx :=
    State.reg_of_engine State.idx (engine_endCycle s s.pushMore) (fun _ => rfl) rfl
  rw [h, bump_val_of_lt hidx]

/-- With room for all that remains, one step a digit, whatever the host does but reset. -/
theorem output_run_of_room (hf : s.Outputs) (hr : s.noReset) (hn : s.idx.val + n = 31)
    (hroom : s.outq.length + n < s.outDepth) :
    ∃ t, runSteps (n + 1) s = .next t ∧ t.noReset ∧ OutputDone s t := by
  induction n generalizing s with
  | zero =>
    have hidx : s.idx = 31 := Fin.ext hn
    exact ⟨_, runSteps_one (step_output_last hf hr hroom hidx), hr.endCycle _, outputDone_last hf hidx⟩
  | succ n ih =>
    have hlt : s.idx.val < 31 := by omega
    have hstep := step_output_more hf hr (by omega) hlt
    have hlen := endCycle_outq_length_le s s.pushMore
    have hidx := pushMore_idx hlt
    rw [pushMore_outq_length] at hlen
    obtain ⟨t, ht, htr, hdone⟩ := ih (s := s.endCycle s.pushMore) (outputs_endCycle hf) (hr.endCycle _) (by omega)
      (by rw [endCycle_outDepth, show s.pushMore.outDepth = s.outDepth from rfl]; omega)
    rw [Nat.add_comm (n + 1)]
    exact ⟨t, runSteps_trans (runSteps_one hstep) ht, htr, hdone.of_more hf hlt⟩

/-- A FIFO that is full has room after one held step, for its one entry is popped. -/
theorem exists_room_of_driven (hf : s.Outputs) (hd : s.Driven ws (b + 1)) :
    ∃ t, Reaches s t ∧ t.Driven ws b ∧ t.Outputs ∧ t.idx = s.idx ∧ t.outq.length < t.outDepth ∧
      ∀ u, OutputDone t u → OutputDone s u := by
  by_cases hroom : s.outq.length < s.outDepth
  · exact ⟨s, .refl s, hd.mono (Nat.le_succ b), hf, rfl, hroom, fun _ h => h⟩
  · have hstep := step_output_full hf hd.noReset (Nat.not_lt.mp hroom)
    refine ⟨s.endCycle s, .of_step hstep, hd.endCycle hf.busy rfl (Nat.le_succ _), outputs_endCycle hf,
      State.reg_of_engine State.idx (engine_endCycle s s) (fun _ => rfl) rfl, ?_, fun _ h => h.of_full⟩
    have hdepth := hd.depth_pos
    have hone : s.outq.length ≤ 1 := hd.outq_le_one
    have hne : s.outq ≠ [] := List.ne_nil_of_length_pos (by omega)
    have hpop : s.pops = true := pops_iff.mpr ⟨hne, ports_rst_of_noReset hd.noReset, hd.outReady⟩
    rw [endCycle_outq, if_pos hpop, List.length_tail, endCycle_outDepth]
    omega

/-- With a host that pops every entry, at most two steps a digit, whatever the depth. -/
theorem output_run_of_driven (hf : s.Outputs) (hn : s.idx.val + n = 31) (hd : s.Driven ws (b + 2 * (n + 1))) :
    ∃ t, Reaches s t ∧ t.Driven ws b ∧ OutputDone s t := by
  induction n generalizing s with
  | zero =>
    obtain ⟨t, hst, htd, htf, htidx, hroom, hdone⟩ := exists_room_of_driven (b := b + 1) hf hd
    have hidx : t.idx = 31 := htidx.trans (Fin.ext hn)
    obtain ⟨houtq, -, hdepth, -⟩ := afterOutput_io t.pushNext
    exact ⟨_, hst.trans (.of_step (step_output_last htf htd.noReset hroom hidx)),
      htd.endCycle htf.busy hdepth (by rw [houtq]; exact Nat.le_of_eq List.length_append),
      hdone _ (outputDone_last htf hidx)⟩
  | succ n ih =>
    obtain ⟨t, hst, htd, htf, htidx, hroom, hdone⟩ := exists_room_of_driven (b := b + 2 * (n + 1) + 1) hf hd
    have hlt : t.idx.val < 31 := by rw [htidx]; omega
    have hstep := step_output_more htf htd.noReset hroom hlt
    have hidx := pushMore_idx hlt
    have htd' : (t.endCycle t.pushMore).Driven ws (b + 2 * (n + 1)) :=
      htd.endCycle htf.busy rfl (Nat.le_of_eq (pushMore_outq_length t))
    obtain ⟨u, htu, hud, hudone⟩ := ih (outputs_endCycle (t := t.pushMore) htf) (by rw [hidx, htidx]; omega) htd'
    exact ⟨u, (hst.trans (.of_step hstep)).trans htu, hud, hdone u (hudone.of_more htf hlt)⟩

end Sys2Proof.Machine

/-! PROOFS. The padder over whole messages (R131 to R134): the block register holds the tail of the message so far, and
the last block of the padded message is that tail with MSG_END's writes; the blocks before it are the message's own. -/

namespace Sys2Proof.Machine

variable {s t : State} {p x : List Byte} {j : Nat}

/-! ### Bytes of a longer message -/

theorem byte_getD_append_left (h : j < p.length) : (p ++ x).getD j 0#8 = p.getD j 0#8 := by
  rw [List.getD_eq_getElem?_getD, List.getElem?_append_left h, List.getD_eq_getElem?_getD]

theorem byte_getD_append_right (h : p.length ≤ j) : (p ++ x).getD j 0#8 = x.getD (j - p.length) 0#8 := by
  rw [List.getD_eq_getElem?_getD, List.getElem?_append_right h, List.getD_eq_getElem?_getD]

theorem byte_getD_replicate {d : Byte} {n : Nat} (h : j < n) : (List.replicate n d).getD j 0#8 = d := by
  rw [List.getD_eq_getElem?_getD, List.getElem?_replicate_of_lt h]
  rfl

/-! ### Blocks of a longer message -/

/-- The full blocks of a message stay when bytes are appended. -/
theorem blockAt_append (x : List Byte) (hj : j < p.length / 16) : blockAt (p ++ x) j = blockAt p j := by
  refine Vector.ext fun i hi => ?_
  simp only [blockAt, Vector.getElem_ofFn]
  exact byte_getD_append_left (by omega)

theorem splitBlocks_append_of_eq (h : (p ++ x).length / 16 = p.length / 16) :
    splitBlocks (p ++ x) = splitBlocks p := by
  rw [splitBlocks, h]
  exact List.map_congr_left fun j hj => blockAt_append x (List.mem_range.mp hj)

theorem splitBlocks_append_of_succ (h : (p ++ x).length / 16 = p.length / 16 + 1) :
    splitBlocks (p ++ x) = splitBlocks p ++ [blockAt (p ++ x) (p.length / 16)] := by
  rw [splitBlocks, h, List.range_succ, List.map_append]
  exact congrArg (· ++ _) (List.map_congr_left fun j hj => blockAt_append x (List.mem_range.mp hj))

/-! ### The tail in the block register -/

/-- `st[0..msg_cnt-1]` holds the bytes of the message after its last full block (R133). -/
def State.HoldsTail (s : State) (p : List Byte) : Prop :=
  s.msgCnt.val = p.length % 16 ∧
    ∀ j : Fin 16, j.val < s.msgCnt.val → s.st[j] = p.getD (16 * (p.length / 16) + j.val) 0#8

/-- The chunk after the full blocks: the tail, then what is appended to it. -/
theorem State.HoldsTail.getD_append (h : s.HoldsTail p) (x : List Byte) (hj : j < 16) :
    (p ++ x).getD (16 * (p.length / 16) + j) 0#8 =
      if j < s.msgCnt.val then s.st[j] else x.getD (j - s.msgCnt.val) 0#8 := by
  obtain ⟨hcnt, htail⟩ := h
  split
  next hlt => rw [byte_getD_append_left (by omega), ← htail ⟨j, hj⟩ hlt]; rfl
  next hge =>
    rw [byte_getD_append_right (by omega)]
    exact congrArg (x.getD · 0#8) (by omega)

theorem State.HoldsTail.blockAt (h : s.HoldsTail p) (x : List Byte) :
    Machine.blockAt (p ++ x) (p.length / 16) =
      Vector.ofFn fun j : Fin 16 => if j.val < s.msgCnt.val then s.st[j] else x.getD (j.val - s.msgCnt.val) 0#8 := by
  rw [Machine.blockAt]
  exact congrArg Vector.ofFn (funext fun j => h.getD_append x j.isLt)

/-- MSG_END under PKCS#7 completes the last block of the padded message (R109, R131). -/
theorem State.HoldsTail.padTailPkcs7 (h : s.HoldsTail p) :
    s.padTailPkcs7.st = Machine.blockAt (padPkcs7 p) (p.length / 16) := by
  rw [padPkcs7, h.blockAt, State.padTailPkcs7_st]
  refine congrArg Vector.ofFn (funext fun j => ?_)
  split
  next => rfl
  next hge =>
    obtain ⟨hcnt, -⟩ := h
    have hj : j.val - s.msgCnt.val < 16 - p.length % 16 := by omega
    rw [byte_getD_replicate hj, padByte, hcnt]

theorem padX923_of_partial (h : p.length % 16 ≠ 0) :
    padX923 p = p ++ (List.replicate (16 - p.length % 16 - 1) 0x00#8 ++ [BitVec.ofNat 8 (16 - p.length % 16)]) := by
  rw [padX923, if_neg h, List.append_assoc]

/-- MSG_END under X.923 completes the last block of a message with a partial one (R110, R132). -/
theorem State.HoldsTail.padTailX923 (h : s.HoldsTail p) (hp : p.length % 16 ≠ 0) :
    s.padTailX923.st = Machine.blockAt (padX923 p) (p.length / 16) := by
  rw [padX923_of_partial hp, h.blockAt, State.padTailX923_st]
  obtain ⟨hcnt, -⟩ := h
  refine congrArg Vector.ofFn (funext fun j => ?_)
  by_cases hlt : j.val < s.msgCnt.val
  · rw [if_neg (by omega), if_pos hlt, if_pos hlt]
  · rw [if_neg hlt, if_neg hlt]
    split
    next hlast =>
      rw [byte_getD_append_right (by rw [List.length_replicate]; omega), List.length_replicate,
        show j.val - s.msgCnt.val - (16 - p.length % 16 - 1) = 0 by omega, padByte, hcnt]
      rfl
    next hmore =>
      rw [byte_getD_append_left (by rw [List.length_replicate]; omega), byte_getD_replicate (by omega)]

/-- The padded message has one block more than the message has full ones, where a padding block is due. -/
theorem splitBlocks_padPkcs7 (p : List Byte) :
    splitBlocks (padPkcs7 p) = splitBlocks p ++ [blockAt (padPkcs7 p) (p.length / 16)] :=
  splitBlocks_append_of_succ (by rw [List.length_append, List.length_replicate]; omega)

theorem splitBlocks_padX923_of_partial (hp : p.length % 16 ≠ 0) :
    splitBlocks (padX923 p) = splitBlocks p ++ [blockAt (padX923 p) (p.length / 16)] := by
  rw [padX923_of_partial hp]
  exact splitBlocks_append_of_succ (by simp; omega)

/-! ### Appending a message byte -/

/-- MSG_WR puts the byte after the tail (R108). -/
theorem State.HoldsTail.appendMsg_st (h : s.HoldsTail p) (d : Byte) (hj : j < 16) (hle : j ≤ s.msgCnt.val) :
    (s.appendMsg d).st[j] = (p ++ [d]).getD (16 * (p.length / 16) + j) 0#8 := by
  have hcnt := h.1
  rw [h.getD_append [d] hj, appendMsg_of_lt (by omega), State.writeSt_st]
  split
  next hlt => exact Vector.getElem_set_ne _ _ (Nat.ne_of_gt hlt)
  next hge =>
    have hjc : j = s.msgCnt.val := by omega
    subst hjc
    rw [Nat.sub_self]
    exact Vector.getElem_set_self _

theorem State.HoldsTail.appendMsg_msgCnt (h : s.HoldsTail p) (d : Byte) :
    (s.appendMsg d).msgCnt.val = p.length % 16 + 1 := by
  have hcnt := h.1
  rw [appendMsg_of_lt (by omega)]
  exact (bump_val_of_lt (by omega)).trans (congrArg (· + 1) hcnt)

theorem State.HoldsTail.appendMsg_of_partial (h : s.HoldsTail p) (d : Byte) (hp : p.length % 16 < 15) :
    (s.appendMsg d).HoldsTail (p ++ [d]) := by
  have hcnt := h.1
  have hcnt' := h.appendMsg_msgCnt d
  have hlen : (p ++ [d]).length = p.length + 1 := List.length_append
  refine ⟨by omega, fun j hj => ?_⟩
  rw [show (p ++ [d]).length / 16 = p.length / 16 by omega]
  exact h.appendMsg_st d j.isLt (by omega)

theorem State.HoldsTail.appendMsg_of_full (h : s.HoldsTail p) (d : Byte) (hp : p.length % 16 = 15) :
    (s.appendMsg d).st = Machine.blockAt (p ++ [d]) (p.length / 16) := by
  have hcnt := h.1
  refine Vector.ext fun j hj => ?_
  rw [h.appendMsg_st d hj (by omega), Machine.blockAt, Vector.getElem_ofFn]

end Sys2Proof.Machine

/-! PROOFS. A whole encryption call (R106): START, the key echo and the key schedule (R105, R147); then byte after byte
of the message, with a block put out whenever one is full (R108); then MSG_END (R109, R110). Between the words the
engine is in ACCEPT, and `State.Accepting` says what it has done of the message so far. -/

namespace Sys2Proof.Machine

variable {s t u : State} {i : Instr} {ws : List CmdWord} {b : Nat} {key : Block} {m : PadMode} {out : List OutEntry}
  {msg : List Byte}

/-! ### The call so far -/

/-- The ciphertext of a list of blocks under a key, as output entries. -/
def cipherEntries (key : Block) (blocks : List Block) : List OutEntry :=
  blocks.flatMap fun b => hexEntries .ciphertext (cipher b (scheduleOfList (expand key)))

theorem cipherEntries_append_one (key : Block) (blocks : List Block) (b : Block) :
    cipherEntries key (blocks ++ [b]) =
      cipherEntries key blocks ++ hexEntries .ciphertext (cipher b (scheduleOfList (expand key))) := by
  simp [cipherEntries]

theorem cipherEntries_nil (key : Block) : cipherEntries key (splitBlocks []) = [] := rfl

/-- In ACCEPT, with `msg` received so far and its full blocks put out after `out`. -/
structure State.Accepting (s : State) (key : Block) (m : PadMode) (out : List OutEntry) (msg : List Byte) : Prop where
  fsm : s.fsm = .accept
  padMode : s.padMode = m
  schedule : s.w = scheduleOfList (expand key)
  tail : s.HoldsTail msg
  stream : s.stream = out ++ cipherEntries key (splitBlocks msg)
  key : s.key = key

/-- Back in IDLE at the end of a call, with `out` put out. -/
structure State.CallDone (s : State) (key : Block) (out : List OutEntry) : Prop where
  fsm : s.fsm = .idle
  done : s.done = true
  stream : s.stream = out
  key : s.key = key

/-! ### From START to ACCEPT -/

theorem step_of_legal (hr : s.noReset) (hf : s.fetch = .run i) (hl : legalIn i s.fsm = true) :
    step s = .next (s.endCycle (performed i s)) := by
  rw [step_of_fetch_run (ports_rst_of_noReset hr) hf, exec_of_legal hl]
  rfl

theorem step_start (hr : s.noReset) (hf : s.fsm = .idle) (hk : s.keyLen = 16) (hfetch : s.fetch = .run (.start m)) :
    step s = .next (s.endCycle (s.startCall m)) := by
  rw [step_of_legal hr hfetch (by rw [hf]; rfl), performed, if_pos hk]

theorem startCall_outputs (s : State) (m : PadMode) : (s.endCycle (s.startCall m)).Outputs :=
  outputs_endCycle (.inl rfl)

theorem startCall_idx (s : State) (m : PadMode) : (s.endCycle (s.startCall m)).idx.val = 0 :=
  congrArg Fin.val (State.reg_of_engine State.idx (engine_endCycle s (s.startCall m)) (fun _ => rfl) rfl)

/-- After the key echo, KEXP completes the schedule and hands over to ACCEPT with no message byte received. -/
theorem accepting_of_echoed (h : OutputDone (s.endCycle (s.startCall m)) t) (hr : t.noReset) :
    ∃ u, Coasts 40 t u ∧ u.Accepting s.key m (s.stream ++ hexEntries .keyEcho s.key) [] := by
  have hte : t.engine = { (s.startCall m).engine with idx := 31, kxI := 4, fsm := .kexp } := by
    rw [h.engine, engine_endCycle]
    rfl
  have htkey : t.key = s.key := State.reg_of_engine State.key hte (fun _ => rfl) rfl
  have htw : t.w = (s.startCall m).w := State.reg_of_engine State.w hte (fun _ => rfl) rfl
  have htcnt : t.msgCnt = 0 := State.reg_of_engine State.msgCnt hte (fun _ => rfl) rfl
  have htpad : t.padMode = m := State.reg_of_engine State.padMode hte (fun _ => rfl) rfl
  have htkx : t.kxI = 4 := State.reg_of_engine State.kxI hte (fun _ => rfl) rfl
  have htstream : t.stream = s.stream ++ hexEntries .keyEcho s.key := by
    rw [h.stream, endCycle_stream, remaining_of_engine (engine_endCycle s (s.startCall m))]
    rfl
  have hmatch : MatchesExpand t.key t.w t.kxI.val := by
    rw [htkey, htw, htkx]
    exact matchesExpand_startCall s m
  obtain ⟨u, hu, hue⟩ := coasts_kexp (n := 39) hr (State.reg_of_engine State.fsm hte (fun _ => rfl) rfl)
    (by rw [htkx]; decide) (by rw [htkx]; rfl) hmatch
  have hucnt : u.msgCnt = 0 := State.reg_of_engine State.msgCnt hue (fun _ => rfl) htcnt
  refine ⟨u, hu, ?_, ?_, ?_, ?_, ?_, ?_⟩
  · exact State.reg_of_engine State.fsm hue (fun _ => rfl) rfl
  · exact State.reg_of_engine State.padMode hue (fun _ => rfl) htpad
  · rw [← htkey]
    exact State.reg_of_engine State.w hue (fun _ => rfl) rfl
  · exact ⟨congrArg Fin.val hucnt, fun j hj => by rw [hucnt] at hj; exact absurd hj (Nat.not_lt_zero _)⟩
  · rw [hu.stream, htstream]
    rw [cipherEntries_nil, List.append_nil]
  · exact State.reg_of_engine State.key hue (fun _ => rfl) htkey

/-- Settles O45: one step for START, 32 for the key echo and 40 for the key schedule. -/
theorem startRunEchoesAndExpandsKey : Obligations.StartRunEchoesAndExpandsKey := by
  intro s m hf hk hr hfetch hroom
  have hstart := step_start hr hf hk hfetch
  have hlen := endCycle_outq_length_le s (s.startCall m)
  rw [State.startCall_outq] at hlen
  obtain ⟨t, ht, htr, hdone⟩ := output_run_of_room (n := 31) (startCall_outputs s m) (hr.endCycle _)
    (by rw [startCall_idx]) (by rw [endCycle_outDepth, State.startCall_outDepth]; omega)
  obtain ⟨u, hu, hacc⟩ := accepting_of_echoed hdone htr
  refine ⟨u, runSteps_trans (runSteps_trans (runSteps_one hstart) ht) hu.run, hacc.fsm, Fin.ext hacc.tail.1,
    hacc.padMode, hacc.key, hacc.schedule, ?_⟩
  rw [hacc.stream, cipherEntries_nil, List.append_nil]

/-! ### A word of the stream -/

/-- A quiescent engine takes the next word of the stream and performs its command. -/
theorem step_of_driven (hd : s.Driven ((encode i).bits :: ws) b) (hi : i.isCommand = true)
    (hl : legalIn i s.fsm = true) :
    step s = .next (s.endCycle (performed i s)) ∧ (s.endCycle (performed i s)).Driven ws 200 := by
  have hq := Fsm.quiescent_of_legalIn hl
  have hr := hd.noReset
  obtain ⟨k, hk, hhost⟩ := hd.host_cons
  have hport : s.ports.cmd = some (encode i).bits := by simp [State.ports, hhost, streamCycle]
  have hfetch : s.fetch = .run i := fetch_of_command hq hport (decodeCmd_of_encode (encode_of_isCommand hi))
  obtain ⟨houtq, -⟩ := performed_output_of_command (s := s) hi
  obtain ⟨hdepth, -⟩ := exec_env (exec_of_legal hl)
  refine ⟨step_of_legal hr hfetch hl, ?_, ?_, k, fun _ => hk, fun _ => hk, ?_⟩
  · rw [endCycle_outDepth, hdepth]
    exact hd.depth_pos
  · have hlen := endCycle_outq_length_le s (performed i s)
    rw [houtq] at hlen
    exact Nat.le_trans hlen hd.outq_le_one
  · rw [endCycle_host, hostAfter_of_quiescent (ports_rst_of_noReset hr) hq, hhost]
    rfl

theorem performed_stream_of_command (hi : i.isCommand = true) (hl : legalIn i s.fsm = true) :
    (performed i s).stream = s.stream := by
  obtain ⟨houtq, -⟩ := performed_output_of_command (s := s) hi
  obtain ⟨-, -, hreceived, -⟩ := exec_env (exec_of_legal hl)
  rw [State.stream, State.stream, houtq, hreceived]

/-! ### A block -/

/-- What a block leaves in the engine's registers once it is encrypted and put out (R186, R203). -/
def State.blockDone (s : State) : State :=
  { s with
    st := cipher s.st s.w, round := 10, idx := 31, msgCnt := 0, done := s.done || s.last
    fsm := if s.last then .idle else .accept }

theorem regs_of_blockDone (h : t.engine = u.engine.blockDone) :
    t.padMode = u.padMode ∧ t.w = u.w ∧ t.key = u.key ∧ t.msgCnt = 0 ∧ t.done = (u.done || u.last) ∧
      t.fsm = if u.last then .idle else .accept := by
  refine ⟨State.reg_of_engine State.padMode h (fun _ => rfl) ?_, State.reg_of_engine State.w h (fun _ => rfl) ?_,
    State.reg_of_engine State.key h (fun _ => rfl) ?_, State.reg_of_engine State.msgCnt h (fun _ => rfl) ?_,
    State.reg_of_engine State.done h (fun _ => rfl) ?_, State.reg_of_engine State.fsm h (fun _ => rfl) rfl⟩
  all_goals simp only [State.blockDone, State.engine]

/-- From RINIT, a block is encrypted in 40 steps and put out in at most 64 more. -/
theorem block_run (hf : s.fsm = .rinit) (hd : s.Driven ws (b + 104)) :
    ∃ t, Reaches s t ∧ t.Driven ws b ∧ t.engine = s.engine.blockDone ∧
      t.stream = s.stream ++ hexEntries .ciphertext (cipher s.st s.w) := by
  obtain ⟨t, ht, hte⟩ := coasts_block hd.noReset hf
  have htfsm : t.fsm = .emit := State.reg_of_engine State.fsm hte (fun _ => rfl) rfl
  have htidx : t.idx = 0 := State.reg_of_engine State.idx hte (fun _ => rfl) rfl
  have htst : t.st = cipher s.st s.w := State.reg_of_engine State.st hte (fun _ => rfl) rfl
  obtain ⟨u, hu, hud, hdone⟩ := output_run_of_driven (n := 31) (b := b) (.inr htfsm) (by rw [htidx]; rfl)
    (ht.driven ws (b + 64) hd)
  refine ⟨u, .trans ⟨40, ht.run⟩ hu, hud, ?_, ?_⟩
  · rw [hdone.engine, hte]
    cases hl : s.last <;> simp [State.afterOutput, State.blockDone, State.engine, hl]
  · rw [hdone.stream, ht.stream, State.remaining, htfsm, htst, htidx]
    rfl

/-- A command that hands a block over to the round controller is a step and the run of that block. -/
theorem block_run_of_command (hd : s.Driven ((encode i).bits :: ws) b) (hi : i.isCommand = true)
    (hl : legalIn i s.fsm = true) (hu : performed i s = u) (hf : u.fsm = .rinit) :
    ∃ t, Reaches s t ∧ t.Driven ws 96 ∧ t.engine = u.engine.blockDone ∧
      t.stream = s.stream ++ hexEntries .ciphertext (cipher u.st u.w) := by
  obtain ⟨hstep, hd'⟩ := step_of_driven hd hi hl
  have hstream := performed_stream_of_command hi hl
  rw [hu] at hstep hd' hstream
  obtain ⟨t, ht, htd, hte, hts⟩ := block_run (b := 96) (by rw [endCycle_fsm, hf]) hd'
  have hst : (s.endCycle u).st = u.st := State.reg_of_engine State.st (engine_endCycle s u) (fun _ => rfl) rfl
  refine ⟨t, .trans (.of_step hstep) ht, htd, by rw [hte, engine_endCycle], ?_⟩
  rw [hts, endCycle_stream, hstream, hst, endCycle_w]

/-! ### The message, byte by byte -/

/-- What ACCEPT says of the message is a matter of the engine's registers and the stream. -/
theorem State.Accepting.of_engine (h : s.Accepting key m out msg) (he : t.engine = s.engine)
    (hs : t.stream = s.stream) : t.Accepting key m out msg where
  fsm := State.reg_of_engine State.fsm he (fun _ => rfl) h.fsm
  padMode := State.reg_of_engine State.padMode he (fun _ => rfl) h.padMode
  schedule := State.reg_of_engine State.w he (fun _ => rfl) h.schedule
  tail := by
    have hcnt : t.msgCnt = s.msgCnt := State.reg_of_engine State.msgCnt he (fun _ => rfl) rfl
    have hst : t.st = s.st := State.reg_of_engine State.st he (fun _ => rfl) rfl
    rw [State.HoldsTail, hcnt, hst]
    exact h.tail
  stream := hs.trans h.stream
  key := State.reg_of_engine State.key he (fun _ => rfl) h.key

theorem State.Accepting.appendMsg (h : s.Accepting key m out msg) (d : Byte) (hp : msg.length % 16 < 15) :
    (s.appendMsg d).Accepting key m out (msg ++ [d]) := by
  refine ⟨?_, ?_, ?_, h.tail.appendMsg_of_partial d hp, ?_, ?_⟩
  · rw [State.appendMsg_fsm, h.fsm]
  · rw [State.appendMsg_padMode, h.padMode]
  · rw [State.appendMsg_w, h.schedule]
  · rw [State.stream, State.appendMsg_received, State.appendMsg_outq,
      splitBlocks_append_of_eq (by rw [List.length_append, List.length_singleton]; omega)]
    exact h.stream
  · rw [State.appendMsg_key, h.key]

/-- The sixteenth byte of a block: the block is put out, and the next byte begins another (R108). -/
theorem State.Accepting.of_blockDone (h : s.Accepting key m out msg) (d : Byte) (hp : msg.length % 16 = 15)
    (hte : t.engine = ((s.appendMsg d).beginBlock false).engine.blockDone)
    (hts : t.stream = s.stream ++ hexEntries .ciphertext (cipher (s.appendMsg d).st s.w)) :
    t.Accepting key m out (msg ++ [d]) := by
  have hlen : (msg ++ [d]).length = msg.length + 1 := List.length_append
  obtain ⟨hpad, hw, hkey, hcnt, -, hfsm⟩ := regs_of_blockDone hte
  refine ⟨hfsm, ?_, ?_, ⟨?_, fun j hj => ?_⟩, ?_, ?_⟩
  · rw [hpad, State.beginBlock_padMode, State.appendMsg_padMode, h.padMode]
  · rw [hw, State.beginBlock_w, State.appendMsg_w, h.schedule]
  · rw [hcnt, hlen]
    exact (show 0 = (msg.length + 1) % 16 by omega)
  · rw [hcnt] at hj
    exact absurd hj (Nat.not_lt_zero _)
  · rw [hts, h.stream, h.tail.appendMsg_of_full d hp, h.schedule, splitBlocks_append_of_succ (by omega),
      cipherEntries_append_one, List.append_assoc]
  · rw [hkey, State.beginBlock_key, State.appendMsg_key, h.key]

theorem State.Accepting.legalIn_msgWr (h : s.Accepting key m out msg) (d : Byte) :
    legalIn (.msgWr d) s.fsm = true := by
  rw [h.fsm]
  rfl

theorem State.Accepting.msgWr (h : s.Accepting key m out msg) (d : Byte)
    (hd : s.Driven ((encode (.msgWr d)).bits :: ws) b) :
    ∃ t, Reaches s t ∧ t.Driven ws 96 ∧ t.Accepting key m out (msg ++ [d]) := by
  have hl := h.legalIn_msgWr d
  have hcnt := h.tail.appendMsg_msgCnt d
  by_cases hp : msg.length % 16 = 15
  · have hfull : (s.appendMsg d).msgCnt = 16 := Fin.ext (hcnt.trans (congrArg (· + 1) hp))
    obtain ⟨t, ht, htd, hte, hts⟩ :=
      block_run_of_command (u := (s.appendMsg d).beginBlock false) hd rfl hl (by rw [performed, if_pos hfull]) rfl
    rw [State.beginBlock_st, State.beginBlock_w, State.appendMsg_w] at hts
    exact ⟨t, ht, htd, h.of_blockDone d hp hte hts⟩
  · have hpart : (s.appendMsg d).msgCnt ≠ 16 := fun h16 => by
      rw [h16] at hcnt
      exact hp (Nat.succ.inj hcnt).symm
    obtain ⟨hstep, htd⟩ := step_of_driven hd rfl hl
    rw [performed, if_neg hpart] at hstep htd
    refine ⟨_, .of_step hstep, htd.mono (by decide), ?_⟩
    exact (h.appendMsg d (by omega)).of_engine (engine_endCycle _ _) (endCycle_stream _ _)

/-- The words of a message and the MSG_END after it. -/
def messageWords (msg : List Byte) : List CmdWord :=
  (msg.map fun d => (encode (.msgWr d)).bits) ++ [(encode .msgEnd).bits]

theorem message_run (rest : List Byte) (h : s.Accepting key m out msg) (hd : s.Driven (messageWords rest) b) :
    ∃ t, Reaches s t ∧ t.Driven (messageWords []) b ∧ t.Accepting key m out (msg ++ rest) := by
  induction rest generalizing s msg b with
  | nil => exact ⟨s, .refl s, hd, by rwa [List.append_nil]⟩
  | cons d rest ih =>
    obtain ⟨t, ht, htd, hacc⟩ := h.msgWr d hd
    obtain ⟨u, hu, hud, hacc'⟩ := ih hacc htd
    refine ⟨u, ht.trans hu, hud.of_ne_nil nofun b, ?_⟩
    rwa [List.append_assoc] at hacc'

/-! ### The end of the message -/

/-- The last block: the padded tail is encrypted and put out, and the call ends (R109, R110). -/
theorem State.Accepting.msgEnd_of_lastBlock (h : s.Accepting key m out msg) (hd : s.Driven [(encode .msgEnd).bits] b)
    (hu : performed .msgEnd s = { u with msgCnt := 16 }.beginBlock true) (hw : u.w = s.w) (hkey : u.key = s.key)
    (hsplit : splitBlocks (pad m msg) = splitBlocks msg ++ [u.st]) :
    ∃ t, Reaches s t ∧ t.Driven [] 96 ∧ t.CallDone key (out ++ cipherEntries key (splitBlocks (pad m msg))) := by
  obtain ⟨t, ht, htd, hte, hts⟩ := block_run_of_command hd rfl (by rw [h.fsm]; rfl) hu rfl
  obtain ⟨-, -, htkey, -, htdone, htfsm⟩ := regs_of_blockDone hte
  refine ⟨t, ht, htd, htfsm, ?_, ?_, ?_⟩
  · rw [htdone, State.beginBlock_last, Bool.or_true]
  · rw [hts, h.stream, hsplit, cipherEntries_append_one, ← h.schedule, ← hw, List.append_assoc]
    rfl
  · rw [htkey, State.beginBlock_key]
    exact hkey.trans h.key

/-- MSG_END where the message leaves no block to pad: the call ends at once (R110). -/
theorem State.Accepting.msgEnd_of_noBlock (h : s.Accepting key m out msg) (hd : s.Driven [(encode .msgEnd).bits] b)
    (hu : performed .msgEnd s = { s with done := true, fsm := .idle }) (hpad : pad m msg = msg) :
    ∃ t, Reaches s t ∧ t.Driven [] 96 ∧ t.CallDone key (out ++ cipherEntries key (splitBlocks (pad m msg))) := by
  obtain ⟨hstep, htd⟩ := step_of_driven hd rfl (by rw [h.fsm]; rfl)
  rw [hu] at hstep htd
  refine ⟨_, .of_step hstep, htd.mono (by decide), ?_, ?_, ?_, ?_⟩
  · rw [endCycle_fsm]
  · rw [endCycle_done]
  · rw [endCycle_stream, hpad]
    exact h.stream
  · rw [endCycle_key]
    exact h.key

theorem State.Accepting.msgEnd (h : s.Accepting key m out msg) (hd : s.Driven [(encode .msgEnd).bits] b) :
    ∃ t, Reaches s t ∧ t.Driven [] 96 ∧ t.CallDone key (out ++ cipherEntries key (splitBlocks (pad m msg))) := by
  have hcnt := h.tail.1
  cases m with
  | pkcs7 =>
    refine h.msgEnd_of_lastBlock hd (u := s.padTailPkcs7) ?_ s.padTailPkcs7_w s.padTailPkcs7_key ?_
    · rw [performed, if_pos h.padMode]
    · rw [h.tail.padTailPkcs7]
      exact splitBlocks_padPkcs7 msg
  | x923 =>
    have hx : s.padMode ≠ .pkcs7 := by
      rw [h.padMode]
      nofun
    by_cases hp : msg.length % 16 = 0
    · have hzero : s.msgCnt = 0 := Fin.ext (hcnt.trans hp)
      exact h.msgEnd_of_noBlock hd (by rw [performed, if_neg hx, if_pos hzero]) (if_pos hp)
    · have hne : s.msgCnt ≠ 0 := fun h0 => hp (by rw [← hcnt, h0]; rfl)
      refine h.msgEnd_of_lastBlock hd (u := s.padTailX923) ?_ s.padTailX923_w s.padTailX923_key ?_
      · rw [performed, if_neg hx, if_neg hne]
      · rw [h.tail.padTailX923 hp]
        exact splitBlocks_padX923_of_partial hp

/-! ### The whole call -/

/-- One more cycle of a host that pops empties the FIFO. -/
theorem State.CallDone.drained (h : s.CallDone key out) (hd : s.Driven [] (b + 1)) :
    ∃ t, step s = .next t ∧ t.outq = [] ∧ t.CallDone key out := by
  have hport : s.ports.cmd = none := by
    obtain ⟨k, -, hk⟩ := hd.host_nil
    simp [State.ports, hk, popCycle]
  have hfetch := fetch_of_noCommand (by rw [h.fsm]; rfl) hport
  refine ⟨_, step_of_fetch_wait (ports_rst_of_noReset hd.noReset) hfetch, ?_, ?_, ?_, ?_, ?_⟩
  · exact List.eq_nil_of_length_eq_zero (Nat.le_zero.mp (hd.endCycle_outq (Nat.le_refl _)))
  · rw [endCycle_fsm, h.fsm]
  · rw [endCycle_done, h.done]
  · rw [endCycle_stream, h.stream]
  · rw [endCycle_key, h.key]

/-- START, the key echo and the key schedule under a host that pops. -/
theorem start_run (hf : s.fsm = .idle) (hk : s.keyLen = 16) (hws : ws ≠ [])
    (hd : s.Driven ((encode (.start m)).bits :: ws) b) :
    ∃ t, Reaches s t ∧ t.Driven ws b ∧ t.Accepting s.key m (s.stream ++ hexEntries .keyEcho s.key) [] := by
  obtain ⟨hstep, hd'⟩ := step_of_driven hd rfl (by rw [hf]; rfl)
  rw [performed, if_pos hk] at hstep hd'
  obtain ⟨t, ht, htd, hdone⟩ := output_run_of_driven (n := 31) (b := 40) (startCall_outputs s m)
    (by rw [startCall_idx]) (hd'.mono (by decide))
  obtain ⟨u, hu, hacc⟩ := accepting_of_echoed hdone htd.noReset
  exact ⟨u, (Reaches.of_step hstep).trans (ht.trans ⟨40, hu.run⟩), (hu.driven ws 0 htd).of_ne_nil hws b, hacc⟩

/-- The host of R106: START, the message and MSG_END, then pops. -/
theorem driven_of_host {k : Nat} (hk : 200 ≤ k) (hdepth : 1 ≤ s.outDepth) (houtq : s.outq = [])
    (hhost : s.host = (((Instr.start m :: msg.map Instr.msgWr) ++ [Instr.msgEnd]).map
      fun i => streamCycle (encode i).bits) ++ List.replicate k popCycle) :
    s.Driven ((encode (.start m)).bits :: messageWords msg) 0 := by
  refine ⟨hdepth, by simp [houtq], k, fun _ => Nat.zero_le k, fun _ => hk, ?_⟩
  simp [hhost, messageWords, Function.comp_def]

/-- Settles O46: START, the message byte by byte, MSG_END, and a last pop. -/
theorem encryptionCallOutput : Obligations.EncryptionCallOutput := by
  intro s m msg hf hk hdepth houtq hhost
  have hd := driven_of_host (Nat.le_refl 200) hdepth houtq hhost
  obtain ⟨t, hst, htd, hacc⟩ := start_run hf hk (by simp [messageWords]) hd
  obtain ⟨u, htu, hud, hacc⟩ := message_run msg hacc htd
  obtain ⟨v, huv, hvd, hdone⟩ := hacc.msgEnd hud
  obtain ⟨x, hvx, hxq, hx⟩ := hdone.drained hvd
  obtain ⟨n, hn⟩ := ((hst.trans htu).trans huv).trans (.of_step hvx)
  have hreceived := hx.stream
  rw [State.stream, hxq, List.append_nil, State.stream, houtq, List.append_nil, List.append_assoc] at hreceived
  exact ⟨n, x, hn, hx.fsm, hx.done, hxq, hx.key, hreceived⟩

end Sys2Proof.Machine

/-! PROOFS. The padded message (R136, R137): its length, its last byte, its blocks; and the tail's writes as the last of
them (R133, R134). -/

namespace Sys2Proof.Machine

variable {p q : List Byte} {j : Nat}

/-! ### The padded message extends the message -/

theorem padX923_of_aligned (h : p.length % 16 = 0) : padX923 p = p := by
  rw [padX923, if_pos h]

theorem prefix_padPkcs7 (p : List Byte) : p <+: padPkcs7 p :=
  List.prefix_append p _

theorem prefix_padX923 (p : List Byte) : p <+: padX923 p := by
  by_cases h : p.length % 16 = 0
  · exact ⟨[], (List.append_nil p).trans (padX923_of_aligned h).symm⟩
  · rw [padX923_of_partial h]
    exact List.prefix_append p _

/-- The full blocks of a message are blocks of every message that extends it. -/
theorem blockAt_of_prefix (h : p <+: q) (hj : j < p.length / 16) : blockAt q j = blockAt p j := by
  obtain ⟨x, rfl⟩ := h
  exact blockAt_append x hj

/-! ### Length and number of blocks -/

theorem splitBlocks_length (p : List Byte) : (splitBlocks p).length = p.length / 16 := by
  rw [splitBlocks, List.length_map, List.length_range]

theorem padPkcs7_length (p : List Byte) : (padPkcs7 p).length = 16 * (p.length / 16 + 1) := by
  rw [padPkcs7, List.length_append, List.length_replicate]
  omega

theorem padX923_length (p : List Byte) : (padX923 p).length = 16 * ((p.length + 15) / 16) := by
  by_cases h : p.length % 16 = 0
  · rw [padX923_of_aligned h]
    omega
  · rw [padX923_of_partial h, List.length_append, List.length_append, List.length_replicate, List.length_singleton]
    omega

theorem splitBlocks_padPkcs7_length (p : List Byte) : (splitBlocks (padPkcs7 p)).length = p.length / 16 + 1 := by
  rw [splitBlocks_length, padPkcs7_length, Nat.mul_div_cancel_left _ (by decide)]

theorem splitBlocks_padX923_length (p : List Byte) : (splitBlocks (padX923 p)).length = (p.length + 15) / 16 := by
  rw [splitBlocks_length, padX923_length, Nat.mul_div_cancel_left _ (by decide)]

/-! ### The last byte -/

theorem padPkcs7_getLast? (p : List Byte) :
    (padPkcs7 p).getLast? = some (BitVec.ofNat 8 (16 - p.length % 16)) := by
  have hk : 16 - p.length % 16 ≠ 0 := by omega
  rw [padPkcs7, List.getLast?_append, List.getLast?_replicate, if_neg hk, Option.some_or]

theorem padX923_getLast?_of_partial (h : p.length % 16 ≠ 0) :
    (padX923 p).getLast? = some (BitVec.ofNat 8 (16 - p.length % 16)) := by
  rw [padX923_of_partial h, ← List.append_assoc, List.getLast?_concat]

/-- Settles O40: PKCS#7 always appends 1 to 16 bytes, X.923 splits on whether the message is aligned. -/
theorem paddedLengthAndLastByte : Obligations.PaddedLengthAndLastByte := by
  intro m
  refine ⟨⟨padPkcs7_length m, padPkcs7_getLast? m, prefix_padPkcs7 m⟩, ?_, ?_⟩
  · exact ⟨padX923_length m, prefix_padX923 m, padX923_of_aligned, padX923_getLast?_of_partial⟩
  · exact ⟨splitBlocks_padPkcs7_length m, splitBlocks_padX923_length m⟩

/-- Settles O41: the block register holds the tail (`State.HoldsTail`), and padding keeps the full blocks. -/
theorem tailPaddingMakesLastBlock : Obligations.TailPaddingMakesLastBlock := by
  intro s m hcnt htail
  have h : s.HoldsTail m := ⟨hcnt, htail⟩
  refine ⟨h.padTailPkcs7, h.padTailX923, fun k hk => ?_⟩
  exact ⟨blockAt_of_prefix (prefix_padPkcs7 m) hk, blockAt_of_prefix (prefix_padX923 m) hk⟩

end Sys2Proof.Machine

/-! PROOFS. The key schedule generator (R140 to R149): RotWord and SubWord byte by byte, the round constants as powers
of `{02}`, the word KEXP writes, and the length and the recurrence of `expand`. -/

namespace Sys2Proof.Machine

variable {s : State}

/-! ### RotWord and SubWord -/

/-- Rotating by the width of the high part exchanges the two parts. -/
theorem rotateLeft_byte_append (hi : BitVec 8) (lo : BitVec 24) :
    (hi ++ lo : BitVec 32).rotateLeft 8 = (lo ++ hi : BitVec 32) := by
  refine BitVec.eq_of_getLsbD_eq fun k hk => ?_
  rw [BitVec.getLsbD_rotateLeft_of_le (by decide), BitVec.getLsbD_append, BitVec.getLsbD_append,
    BitVec.getLsbD_append]
  by_cases h8 : k < 8
  · simp [h8]
  · have hlo : k - 8 < 24 := by omega
    simp [h8, hlo, hk]

/-- RotWord moves the first byte to the end (R140). -/
theorem rotWord_packWord (b0 b1 b2 b3 : Byte) : rotWord (packWord b0 b1 b2 b3) = packWord b1 b2 b3 b0 := by
  have hassoc : packWord b0 b1 b2 b3 = (b0 ++ (b1 ++ b2 ++ b3 : BitVec 24) : BitVec 32) := by
    change (b0 ++ b1 ++ b2 ++ b3 : BitVec (8 + 8 + 8 + 8)) = _
    rw [BitVec.append_assoc, BitVec.append_assoc, BitVec.append_assoc]
    rfl
  rw [hassoc]
  exact rotateLeft_byte_append b0 (b1 ++ b2 ++ b3)

/-- Above the low byte lies what it was appended to. -/
theorem extractLsb'_append_byte {n k : Nat} (x : BitVec n) (b : Byte) :
    (x ++ b).extractLsb' (k + 8) 8 = x.extractLsb' k 8 :=
  BitVec.extractLsb'_append_eq_of_le (Nat.le_add_left 8 k)

/-- The bytes of a packed word are those it was packed from (R62). -/
theorem wordByte_packWord (b0 b1 b2 b3 : Byte) :
    wordByte (packWord b0 b1 b2 b3) 0 = b0 ∧ wordByte (packWord b0 b1 b2 b3) 1 = b1 ∧
      wordByte (packWord b0 b1 b2 b3) 2 = b2 ∧ wordByte (packWord b0 b1 b2 b3) 3 = b3 := by
  refine ⟨?_, ?_, ?_, BitVec.extractLsb'_append_eq_right⟩
  · exact (extractLsb'_append_byte _ b3).trans
      ((extractLsb'_append_byte _ b2).trans BitVec.extractLsb'_append_eq_left)
  · exact (extractLsb'_append_byte _ b3).trans
      ((extractLsb'_append_byte _ b2).trans BitVec.extractLsb'_append_eq_right)
  · exact (extractLsb'_append_byte _ b3).trans BitVec.extractLsb'_append_eq_right

/-- SubWord goes byte by byte through the S-box (R142). -/
theorem subWord_packWord (b0 b1 b2 b3 : Byte) :
    subWord (packWord b0 b1 b2 b3) = packWord (sbox b0) (sbox b1) (sbox b2) (sbox b3) := by
  obtain ⟨h0, h1, h2, h3⟩ := wordByte_packWord b0 b1 b2 b3
  rw [subWord, h0, h1, h2, h3]

/-- Settles O39: both on a word packed from four bytes. -/
theorem rotWordAndSubWordOnBytes : Obligations.RotWordAndSubWordOnBytes :=
  fun b0 b1 b2 b3 => ⟨rotWord_packWord b0 b1 b2 b3, subWord_packWord b0 b1 b2 b3⟩

/-! ### The round constants -/

theorem rcon_of_mem {n : Nat} (h1 : 1 ≤ n) (h10 : n ≤ 10) : rcon n = rconTable[n - 1] :=
  dif_pos ⟨h1, h10⟩

/-- Each entry of the round-constant ROM doubles the one before it in GF(2^8) (R27). -/
theorem rconTable_succ (k : Fin 9) : rconTable[k.val + 1] = xtime rconTable[k.val] := by
  revert k
  decide

theorem rcon_succ {n : Nat} (h1 : 1 ≤ n) (h9 : n ≤ 9) : rcon (n + 1) = xtime (rcon n) := by
  obtain ⟨k, rfl⟩ := Nat.exists_eq_add_of_le' h1
  rw [rcon_of_mem (by omega) (by omega), rcon_of_mem h1 (by omega)]
  exact rconTable_succ ⟨k, by omega⟩

/-- A round-constant word has its byte in the high-order position and zeros below (R143). -/
theorem rconWord_eq_append (n : Nat) : rconWord n = (rcon n ++ 0x000000#24 : BitVec 32) := by
  have h := BitVec.setWidth_append_eq_shiftLeft_setWidth_or (b := rcon n) (b' := 0x000000#24) (w'' := 32)
  rw [BitVec.setWidth_zero, BitVec.or_zero] at h
  exact h.symm.trans (BitVec.setWidth_eq _)

/-- Settles O33: the ROM doubles entry by entry, and a round-constant word is its byte above 24 zero bits. -/
theorem rconIsPowersOfTwo : Obligations.RconIsPowersOfTwo :=
  ⟨rfl, fun _ h1 h9 => rcon_succ h1 h9, ⟨rfl, rfl⟩, fun n _ _ => rconWord_eq_append n, by decide⟩

/-! ### KEXP -/

/-- With `kx_i` at least 4 both words KEXP reads are in the register file (R146). -/
theorem State.nextWord_of_le (h : 4 ≤ s.kxI.val) :
    s.nextWord = scheduleWord s.kxI.val s.w[s.kxI.val - 1] s.w[s.kxI.val - 4] := by
  rw [State.nextWord, wordBefore_of_le (by omega), wordBefore_of_le h]

theorem set_index_congr {α : Type} {n i j : Nat} (v : Vector α n) (x : α) (hi : i < n) (h : i = j) :
    v.set i x hi = v.set j x (h ▸ hi) := by
  subst h
  rfl

/-- Settles O23, by whether `kx_i` has come to the last word. -/
theorem kexpComputesScheduleWord : Obligations.KexpComputesScheduleWord := by
  intro s hf h v hv
  have hnext : s.nextWord = v := (State.nextWord_of_le h).trans hv.symm
  have hexec : exec .kexp s = .next (performed .kexp s) := exec_of_enabled (.inr (by rw [hf]; rfl))
  subst hnext
  refine ⟨fun hlt => ?_, fun hlast => ?_⟩
  · have hbump : bump s.kxI = ⟨s.kxI.val + 1, by omega⟩ := Fin.ext (bump_val_of_lt hlt)
    rw [hexec, performed, if_neg (Nat.ne_of_lt hlt), hbump]
    rfl
  · have hval : s.kxI.val = 43 := congrArg Fin.val hlast
    have hw : s.w.set s.kxI.val s.nextWord = s.w.set 43 s.nextWord := set_index_congr s.w _ s.kxI.isLt hval
    have hwr : s.wWr.set s.kxI.val true = s.wWr.set 43 true := set_index_congr s.wWr _ s.kxI.isLt hval
    rw [hexec, performed, if_pos hval, ← hw, ← hwr]
    rfl

/-! ### The words of `expand` -/

theorem expandMore_length (n : Nat) (ws : List Word) : (expandMore n ws).length = ws.length + n := by
  induction n generalizing ws with
  | zero => rfl
  | succ n ih =>
    rw [expandMore, ih, List.length_append, List.length_singleton]
    omega

theorem expand_length (key : Block) : (expand key).length = 44 :=
  expandMore_length 40 _

theorem expand_getElem? (key : Block) {k : Nat} (hk : k < 44) :
    (expand key)[k]? = some ((expand key).getD k 0) := by
  have hlen : k < (expand key).length := by rwa [expand_length]
  rw [List.getElem?_eq_getElem hlen, List.getElem_eq_getD]

/-- Settles O38: `expandMore` appends one word a turn, and each is the schedule word of those before it. -/
theorem keyScheduleRecurrence : Obligations.KeyScheduleRecurrence := by
  intro key
  refine ⟨expand_length key, fun c => ?_, fun i h4 h43 => ?_⟩
  · rw [expand_getElem? key (by omega), expand_head]
    rfl
  · refine ⟨_, _, expand_getElem? key (by omega), expand_getElem? key (by omega), ?_⟩
    rw [expand_getElem? key (by omega), expand_step key h4 (by omega)]
    rfl

end Sys2Proof.Machine

/-! PROOFS. The round transforms (R160 to R168): `xtime` as an additive map, multiplication by `{02}` and `{03}` through
it, MixColumns column by column and its linearity, SubBytes by lane, ShiftRows by row and column. -/

namespace Sys2Proof.Machine

/-! ### Multiplication by `{02}` and `{03}` -/

/-- The branch of `xtime` is on the reduction alone: the byte is shifted in any case (R160). -/
theorem xtime_eq_shift_xor_reduction (x : Byte) :
    xtime x = (x <<< 1) ^^^ (if x.getLsbD 7 then 0x1b#8 else 0#8) := by
  rw [xtime]
  split
  · rfl
  · rw [BitVec.xor_zero]

theorem xtime_zero : xtime 0#8 = 0#8 := rfl

/-- The shift is additive, and two reductions cancel as their high bits do. -/
theorem xtime_xor (x y : Byte) : xtime (x ^^^ y) = xtime x ^^^ xtime y := by
  have hred : (if (x ^^^ y).getLsbD 7 then 0x1b#8 else 0#8) =
      (if x.getLsbD 7 then 0x1b#8 else 0#8) ^^^ (if y.getLsbD 7 then 0x1b#8 else 0#8) := by
    rw [BitVec.getLsbD_xor]
    cases x.getLsbD 7 <;> cases y.getLsbD 7 <;> rfl
  simp only [xtime_eq_shift_xor_reduction, hred, BitVec.shiftLeft_xor_distrib]
  ac_rfl

/-- Of the eight turns of `gfMul` the first six leave 0, the seventh makes `a` and the eighth doubles it. -/
theorem gfMul_two (a : Byte) : gfMul a 2#8 = xtime a := by
  simp [gfMul, List.range_succ, xtime_zero]

/-- As `gfMul_two`, and the eighth turn adds `a` once more: "×3 is expressed as `xtime(x) xor x`" (R161). -/
theorem gfMul_three (a : Byte) : gfMul a 3#8 = xtime a ^^^ a := by
  simp [gfMul, List.range_succ, xtime_zero]

/-! ### MixColumns -/

/-- The formulas of one column are the 2/3/1/1 matrix (R166). -/
theorem mixColumn_eq_matrixProduct (a0 a1 a2 a3 : Byte) :
    mixColumn a0 a1 a2 a3 0 = gfMul a0 2#8 ^^^ gfMul a1 3#8 ^^^ a2 ^^^ a3 ∧
    mixColumn a0 a1 a2 a3 1 = a0 ^^^ gfMul a1 2#8 ^^^ gfMul a2 3#8 ^^^ a3 ∧
    mixColumn a0 a1 a2 a3 2 = a0 ^^^ a1 ^^^ gfMul a2 2#8 ^^^ gfMul a3 3#8 ∧
    mixColumn a0 a1 a2 a3 3 = gfMul a0 3#8 ^^^ a1 ^^^ a2 ^^^ gfMul a3 2#8 := by
  simp only [mixColumn, gfMul_two, gfMul_three]
  refine ⟨?_, ?_, ?_, ?_⟩ <;> ac_rfl

theorem mixColumn_xor (a0 a1 a2 a3 b0 b1 b2 b3 : Byte) (r : Fin 4) :
    mixColumn (a0 ^^^ b0) (a1 ^^^ b1) (a2 ^^^ b2) (a3 ^^^ b3) r =
      mixColumn a0 a1 a2 a3 r ^^^ mixColumn b0 b1 b2 b3 r := by
  match r with
  | 0 | 1 | 2 | 3 =>
    simp only [mixColumn, xtime_xor]
    ac_rfl

/-- Row `r` of column `c` after MixColumns depends on column `c` alone (R167). -/
theorem mixColumns_getElem (s : Block) (c r : Fin 4) :
    (mixColumns s)[4 * c.val + r.val] =
      mixColumn s[4 * c.val] s[4 * c.val + 1] s[4 * c.val + 2] s[4 * c.val + 3] r := by
  have hc : (4 * c.val + r.val) / 4 = c.val := by omega
  have hr : (4 * c.val + r.val) % 4 = r.val := by omega
  simp only [mixColumns, Vector.getElem_ofFn, hc, hr]

/-- Settles O35: each column is mixed by itself, and the formulas of one column are the matrix. -/
theorem mixColumnsIsMatrixProduct : Obligations.MixColumnsIsMatrixProduct := by
  rintro s c _ _ _ _ rfl rfl rfl rfl
  obtain ⟨h0, h1, h2, h3⟩ :=
    mixColumn_eq_matrixProduct s[4 * c.val] s[4 * c.val + 1] s[4 * c.val + 2] s[4 * c.val + 3]
  exact ⟨(mixColumns_getElem s c 0).trans h0, (mixColumns_getElem s c 1).trans h1,
    (mixColumns_getElem s c 2).trans h2, (mixColumns_getElem s c 3).trans h3⟩

/-- Settles O36: byte by byte, from the linearity of one column. -/
theorem mixColumnsIsLinear : Obligations.MixColumnsIsLinear := by
  intro a b
  refine Vector.ext fun j hj => ?_
  simp only [mixColumns, Vector.getElem_ofFn, Fin.getElem_fin]
  exact mixColumn_xor ..

/-! ### SubBytes and ShiftRows -/

theorem subBytes_getElem (s : Block) (j : Fin 16) : (subBytes s)[j] = sbox s[j] :=
  Vector.getElem_ofFn j.isLt

/-- A left rotation by `r` brings the byte of column `(c + r) mod 4` into column `c` (R163). -/
theorem shiftRows_getElem (s : Block) (r c : Fin 4) :
    (shiftRows s)[r.val + 4 * c.val] = s[r.val + 4 * ((c.val + r.val) % 4)] := by
  have hr : (r.val + 4 * c.val) % 4 = r.val := by omega
  have hc : (r.val + 4 * c.val) / 4 = c.val := by omega
  simp only [shiftRows, Vector.getElem_ofFn, hr, hc]

theorem shiftRows_eq_permutation (s : Block) : shiftRows s =
    #v[s[0], s[5], s[10], s[15], s[4], s[9], s[14], s[3], s[8], s[13], s[2], s[7], s[12], s[1], s[6], s[11]] := rfl

/-- Rotating right by `r` is rotating left by `4 - r`, and the two rotations add up to a whole turn (R165). -/
theorem shiftRows_getElem_rotatedBack (s : Block) (r c : Fin 4) :
    (shiftRows s)[r.val + 4 * ((c.val + (4 - r.val)) % 4)]'(by omega) = s[r.val + 4 * c.val] := by
  have hturn : ((c.val + (4 - r.val)) % 4 + r.val) % 4 = c.val := by omega
  rw [shiftRows_getElem s r ⟨(c.val + (4 - r.val)) % 4, by omega⟩]
  simp only [hturn]

/-- Settles O34: each lane read off the vector its transform builds. -/
theorem subBytesAndShiftRowsByLane : Obligations.SubBytesAndShiftRowsByLane :=
  ⟨subBytes_getElem, shiftRows_getElem, shiftRows_eq_permutation, shiftRows_getElem_rotatedBack⟩

end Sys2Proof.Machine

/-! PROOFS. The round controller (R180 to R188): each round micro-operation where its controller state selects it, the
block run, what each of the eight micro-operations writes, and the transitions of `fsm` row by row. -/

namespace Sys2Proof.Machine

variable {s t : State} {i : Instr}

/-! ### The round micro-operations -/

/-- A micro-operation is performed in the controller state that selects it (R86, R180). -/
theorem exec_of_microOp (hm : s.fsm.microOp = some i) : exec i s = .next (performed i s) :=
  exec_of_enabled (.inr hm)

/-- Settles O24: what RINIT leaves where `RINIT` selects it. -/
theorem rinitAddsRoundKeyZero : Obligations.RinitAddsRoundKeyZero :=
  fun _ hf => exec_of_microOp (by rw [hf]; rfl)

/-- Settles O25: what RSUB leaves where `RSUB` selects it. -/
theorem rsubSubstitutesBytes : Obligations.RsubSubstitutesBytes :=
  fun _ hf => exec_of_microOp (by rw [hf]; rfl)

/-- Settles O26, by whether this is the last round. -/
theorem rshiftShiftsRows : Obligations.RshiftShiftsRows := by
  intro s hf
  rw [exec_of_microOp (by rw [hf]; rfl), performed]
  refine ⟨fun hround => ?_, fun hround => ?_⟩
  · rw [if_pos hround]
    rfl
  · rw [if_neg (by rw [hround]; decide)]
    rfl

/-- Settles O27: what RMIX leaves where `RMIX` selects it. -/
theorem rmixMixesColumns : Obligations.RmixMixesColumns :=
  fun _ hf => exec_of_microOp (by rw [hf]; rfl)

/-- Settles O28, by whether this is the last round. -/
theorem raddAddsRoundKey : Obligations.RaddAddsRoundKey := by
  intro s hf
  rw [exec_of_microOp (by rw [hf]; rfl), performed]
  refine ⟨fun hround => ?_, fun hround => ?_⟩
  · have hbump : bump s.round = ⟨s.round.val + 1, by omega⟩ := Fin.ext (bump_val_of_lt hround)
    rw [if_pos hround, hbump]
    rfl
  · rw [if_neg (by rw [hround]; decide), ← hround]
    rfl

/-! ### The block run -/

/-- Settles O43: the forty micro-steps of `coasts_block`, each register read off the engine they leave. -/
theorem blockRunComputesCipher : Obligations.BlockRunComputesCipher := by
  intro s hf hr
  obtain ⟨t, ht, he⟩ := coasts_block hr hf
  refine ⟨t, ht.run, ?_, ?_, ?_, ?_, ?_, ?_, ?_, ht.stream⟩
  · exact State.reg_of_engine State.fsm he (fun _ => rfl) rfl
  · exact State.reg_of_engine State.st he (fun _ => rfl) rfl
  · exact State.reg_of_engine State.idx he (fun _ => rfl) rfl
  · exact State.reg_of_engine State.round he (fun _ => rfl) rfl
  · exact State.reg_of_engine State.w he (fun _ => rfl) rfl
  · exact State.reg_of_engine State.key he (fun _ => rfl) rfl
  · exact State.reg_of_engine State.last he (fun _ => rfl) rfl

/-! ### What a micro-operation writes -/

/-- ECHO writes `outq`, `idx`, `kx_i` and `fsm` only (R201). -/
theorem performed_echo_writes (s : State) :
    ∃ outq idx kxI fsm, performed .echo s = { s with outq := outq, idx := idx, kxI := kxI, fsm := fsm } := by
  simp only [performed]
  repeat' split
  all_goals exact ⟨_, _, _, _, rfl⟩

/-- KEXP writes `w[kx_i]`, `kx_i` and `fsm` only (R146). -/
theorem performed_kexp_writes (s : State) :
    ∃ kxI fsm, performed .kexp s =
      { s with w := s.w.set s.kxI s.nextWord, wWr := s.wWr.set s.kxI true, kxI := kxI, fsm := fsm } := by
  simp only [performed]
  split
  all_goals exact ⟨_, _, rfl⟩

/-- RADD writes `st`, `round`, `idx` and `fsm` only (R186). -/
theorem performed_radd_writes (s : State) :
    ∃ st round idx fsm, performed .radd s = { s with st := st, round := round, idx := idx, fsm := fsm } := by
  simp only [performed]
  split
  all_goals exact ⟨_, _, _, _, rfl⟩

/-- EMIT writes `outq`, `idx`, `msg_cnt`, `done` and `fsm` only (R203). -/
theorem performed_emit_writes (s : State) :
    ∃ outq idx msgCnt done fsm, performed .emit s =
      { s with outq := outq, idx := idx, msgCnt := msgCnt, done := done, fsm := fsm } := by
  simp only [performed]
  repeat' split
  all_goals exact ⟨_, _, _, _, _, rfl⟩

/-- Settles O30: a micro-operation that is not enabled changes nothing, and one that is performed writes what the lemmas
above say. -/
theorem microOperationFrame : Obligations.MicroOperationFrame := by
  intro s t i c hc he
  rcases exec_next he with rfl | ⟨-, -, w, hw, -⟩ | ⟨-, rfl⟩
  · simp
  · rw [hc] at hw
    cases hw
  · cases i
    case nop | keyClr | keyWr | start | msgWr | msgEnd | errClr => cases hc
    case rinit | rsub | rshift | rmix => simp [performed]
    case echo =>
      obtain ⟨outq, idx, kxI, fsm, h⟩ := performed_echo_writes s
      simp [h]
    case kexp =>
      obtain ⟨kxI, fsm, h⟩ := performed_kexp_writes s
      have hne {k : Fin 44} (hk : k ≠ s.kxI) : s.kxI.val ≠ k.val := Fin.val_ne_iff.mpr hk.symm
      simpa [h] using fun k hk => ⟨Vector.getElem_set_ne _ _ (hne hk), Vector.getElem_set_ne _ _ (hne hk)⟩
    case radd =>
      obtain ⟨st, round, idx, fsm, h⟩ := performed_radd_writes s
      simp [h]
    case emit =>
      obtain ⟨outq, idx, msgCnt, done, fsm, h⟩ := performed_emit_writes s
      simp [h]

/-! ### The controller state each instruction leaves -/

theorem performed_start_fsm (s : State) (m : PadMode) :
    (performed (.start m) s).fsm = if s.keyLen = 16 then .echo else s.fsm :=
  apply_ite State.fsm _ _ _

theorem performed_msgWr_fsm (s : State) (d : Byte) :
    (performed (.msgWr d) s).fsm = if (s.appendMsg d).msgCnt = 16 then .rinit else s.fsm := by
  rw [performed, apply_ite State.fsm, State.appendMsg_fsm]
  rfl

theorem performed_msgEnd_fsm (s : State) :
    (performed .msgEnd s).fsm = if s.padMode = .x923 ∧ s.msgCnt = 0 then .idle else .rinit := by
  cases hpad : s.padMode
  · simp [performed, hpad]
  · simp [performed, hpad, apply_ite State.fsm]

theorem performed_echo_fsm (s : State) :
    (performed .echo s).fsm = if s.outq.length < s.outDepth ∧ s.idx = 31 then .kexp else s.fsm := by
  by_cases hroom : s.outq.length < s.outDepth
  · simp [performed, State.canPush, hroom, apply_ite State.fsm]
  · simp [performed, State.canPush, hroom]

theorem performed_kexp_fsm (s : State) :
    (performed .kexp s).fsm = if s.kxI = 43 then .accept else s.fsm := by
  simp only [performed, apply_ite State.fsm, Fin.ext_iff]
  rfl

theorem performed_radd_fsm (s : State) :
    (performed .radd s).fsm = if s.round.val < 10 then .rsub else .emit :=
  apply_ite State.fsm _ _ _

theorem performed_emit_fsm (s : State) :
    (performed .emit s).fsm =
      if s.outq.length < s.outDepth ∧ s.idx = 31 then (if s.last then .idle else .accept) else s.fsm := by
  by_cases hroom : s.outq.length < s.outDepth
  · simp [performed, State.canPush, hroom, apply_ite State.fsm]
  · simp [performed, State.canPush, hroom]

/-! ### The controller state after a step -/

theorem isCommand_of_fetch (hq : s.fsm.quiescent = true) (hf : s.fetch = .run i) : i.isCommand = true := by
  rcases fetch_run hf with hm | ⟨-, w, -, hw⟩
  · rw [microOp_of_quiescent hq] at hm
    cases hm
  · exact isCommand_of_encode hw

theorem appendMsg_msgCnt_val {d : Byte} (h : s.msgCnt.val < 16) : (s.appendMsg d).msgCnt.val = s.msgCnt.val + 1 := by
  rw [appendMsg_of_lt h]
  exact bump_val_of_lt h

section

variable (hr : s.ports.rst = false) (hstep : step s = .next t)
include hr hstep

/-- Where the fetched instruction is enabled, the step leaves the controller state that it leaves. -/
theorem step_fsm_of_enabled (hf : s.fetch = .run i) (hen : enabled i s.fsm) : t.fsm = (performed i s).fsm := by
  rw [step_of_fetch_run hr hf, exec_of_enabled hen] at hstep
  cases hstep
  exact endCycle_fsm _ _

theorem step_fsm_of_microOp (hm : s.fsm.microOp = some i) : t.fsm = (performed i s).fsm :=
  step_fsm_of_enabled hr hstep (fetch_of_micro hm) (.inr hm)

/-- START, MSG_WR and MSG_END are the only commands that move the controller on (R181). -/
theorem step_fsm_of_otherCommand (hq : s.fsm.quiescent = true)
    (h : ∀ i, s.fetch = .run i → enabled i s.fsm → (¬ ∃ m, i = .start m) ∧ (¬ ∃ d, i = .msgWr d) ∧ i ≠ .msgEnd) :
    t.fsm = s.fsm := by
  obtain ⟨u, hu, rfl⟩ := step_next_of_noReset hr hstep
  rw [endCycle_fsm]
  rcases engineStep_cases hu with rfl | ⟨-, w, -, rfl⟩ | ⟨i, hf, hen, rfl⟩
  · rfl
  · rfl
  · obtain ⟨hst, hwr, hend⟩ := h i hf hen
    obtain ⟨-, hfsm⟩ := performed_control (s := s) (isCommand_of_fetch hq hf) hst hwr hend
    exact hfsm

/-- From `IDLE` only START with a complete key leads on, to `ECHO` (R181). -/
theorem step_fsm_of_idle (hf : s.fsm = .idle) :
    ((∃ m, s.fetch = .run (.start m)) → t.fsm = if s.keyLen = 16 then .echo else .idle) ∧
      ((¬ ∃ m, s.fetch = .run (.start m)) → t.fsm = .idle) := by
  constructor
  · rintro ⟨m, hstart⟩
    rw [step_fsm_of_enabled hr hstep hstart (.inl (by rw [hf]; rfl)), performed_start_fsm, hf]
  · intro hno
    refine (step_fsm_of_otherCommand hr hstep (by rw [hf]; rfl) fun i hi hen => ⟨?_, ?_, ?_⟩).trans hf
    · rintro ⟨m, rfl⟩
      exact hno ⟨m, hi⟩
    · rintro ⟨d, rfl⟩
      cases hf.symm.trans (runsIn_of_enabled hen)
    · rintro rfl
      cases hf.symm.trans (runsIn_of_enabled hen)

/-- From `ACCEPT` the byte that completes a block and MSG_END lead on (R181). -/
theorem step_fsm_of_accept (hf : s.fsm = .accept) :
    ((∃ d, s.fetch = .run (.msgWr d)) →
      (s.msgCnt.val + 1 < 16 → t.fsm = .accept) ∧ (s.msgCnt.val + 1 = 16 → t.fsm = .rinit) ∧
        (s.msgCnt = 16 → t.fsm = .accept ∨ t.fsm = .rinit)) ∧
      (s.fetch = .run .msgEnd → t.fsm = if s.padMode = .x923 ∧ s.msgCnt = 0 then .idle else .rinit) ∧
      ((¬ ∃ d, s.fetch = .run (.msgWr d)) → s.fetch ≠ .run .msgEnd → t.fsm = .accept) := by
  refine ⟨?_, fun hend => ?_, fun hwr hend => ?_⟩
  · rintro ⟨d, hwr⟩
    rw [step_fsm_of_enabled hr hstep hwr (.inl (by rw [hf]; rfl)), performed_msgWr_fsm, hf]
    refine ⟨fun hlt => if_neg ?_, fun heq => if_pos ?_, fun _ => ?_⟩
    · rw [Fin.ext_iff, appendMsg_msgCnt_val (by omega)]
      exact Nat.ne_of_lt hlt
    · rw [Fin.ext_iff, appendMsg_msgCnt_val (by omega)]
      exact heq
    · split
      · exact .inr rfl
      · exact .inl rfl
  · rw [step_fsm_of_enabled hr hstep hend (.inl (by rw [hf]; rfl)), performed_msgEnd_fsm]
  · refine (step_fsm_of_otherCommand hr hstep (by rw [hf]; rfl) fun i hi hen => ⟨?_, ?_, ?_⟩).trans hf
    · rintro ⟨m, rfl⟩
      cases hf.symm.trans (runsIn_of_enabled hen)
    · rintro ⟨d, rfl⟩
      exact hwr ⟨d, hi⟩
    · rintro rfl
      exact hend hi

end

/-- Settles O42: a reset ends in `IDLE`, a quiescent engine follows its commands, and each other row of R181 is what the
micro-operation of its state leaves. -/
theorem controllerTransitions : Obligations.ControllerTransitions := by
  intro s t hstep
  constructor
  · intro hr
    rw [step_of_reset hr] at hstep
    cases hstep
    exact State.applyReset_fsm s
  · intro hr
    refine ⟨step_fsm_of_idle hr hstep, fun hf => ?_, fun hf => ?_, step_fsm_of_accept hr hstep, fun hf => ?_,
      fun hf => ?_, fun hf => ?_, fun hf => ?_, fun hf => ?_, fun hf => ?_⟩
    all_goals have hmicro := step_fsm_of_microOp hr hstep (by rw [hf]; rfl)
    · rw [hmicro, performed_echo_fsm, hf]
    · rw [hmicro, performed_kexp_fsm, hf]
    · exact hmicro
    · exact hmicro
    · exact hmicro
    · exact hmicro
    · rw [hmicro, performed_radd_fsm]
    · rw [hmicro, performed_emit_fsm, hf]

end Sys2Proof.Machine

/-! PROOFS. The output formatter (R200 to R207): the hex digits; what an output step leaves, held or with one entry
pushed (`State.outputStep`); a push and a pop in one cycle (R264); and the step on the registers alone
(`State.registers`), on which neither the FIFO nor its depth nor the host has a say (R207). -/

namespace Sys2Proof.Machine

variable {s s' t u u' : State} {i : Instr}

/-! ### The hex digits -/

theorem hexDigit_of_le {n : BitVec 4} (h : n.toNat ≤ 9) : (hexDigit n).toNat = 0x30 + n.toNat := by
  have hle : n ≤ 9#4 := h
  rw [hexDigit, if_pos hle, BitVec.toNat_add, BitVec.toNat_setWidth_of_le (by decide)]
  exact Nat.mod_eq_of_lt (Nat.lt_of_le_of_lt (Nat.add_le_add_left h _) (by decide))

theorem hexDigit_of_ge {n : BitVec 4} (h : 10 ≤ n.toNat) : (hexDigit n).toNat = 0x61 + (n.toNat - 10) := by
  have hgt : ¬ n ≤ 9#4 := Nat.not_le.mpr h
  have hlt : n.toNat < 16 := n.isLt
  rw [hexDigit, if_neg hgt, BitVec.toNat_add, BitVec.toNat_sub, BitVec.toNat_setWidth_of_le (by decide)]
  simp only [BitVec.toNat_ofNat]
  omega

/-- Settles O47: the digits by the branch of `hexDigit`, and a byte's two digits as `hexByte` lists them. -/
theorem hexDigitsAreLowercase : Obligations.HexDigitsAreLowercase :=
  ⟨fun _ => hexDigit_of_le, fun _ => hexDigit_of_ge, fun _ => rfl⟩

/-! ### One output step -/

/-- Past a pushed digit: the following nibble, or past the last one where ECHO or EMIT leads (R201, R203). -/
def State.advance (s : State) : State :=
  if s.idx = 31 then s.afterOutput else { s with idx := bump s.idx }

/-- What a step of ECHO or EMIT leaves: one entry pushed, or with a full FIFO nothing (R201, R203, R205). -/
def State.outputStep (s : State) : State :=
  if s.outq.length < s.outDepth then s.pushNext.advance else s

theorem outputStep_of_room (h : s.outq.length < s.outDepth) : s.outputStep = s.pushNext.advance :=
  if_pos h

theorem outputStep_of_full (h : s.outDepth ≤ s.outq.length) : s.outputStep = s :=
  if_neg (Nat.not_lt.mpr h)

theorem advance_of_lt (h : s.idx.val < 31) : s.advance = { s with idx := ⟨s.idx.val + 1, by omega⟩ } := by
  have hne : s.idx ≠ 31 := Fin.val_ne_iff.mp (Nat.ne_of_lt h)
  have hbump : bump s.idx = ⟨s.idx.val + 1, by omega⟩ := Fin.ext (bump_val_of_lt h)
  rw [State.advance, if_neg hne, hbump]

theorem afterOutput_echo (hf : s.fsm = .echo) : s.afterOutput = { s with kxI := 4, fsm := .kexp } := by
  simp only [State.afterOutput, hf]

theorem afterOutput_emit (hf : s.fsm = .emit) :
    s.afterOutput =
      { s with msgCnt := 0, done := s.done || s.last, fsm := if s.last then .idle else .accept } := by
  cases hl : s.last <;> simp [State.afterOutput, hf, hl]

theorem pushNext_echo (hf : s.fsm = .echo) :
    s.pushNext =
      { s with outq := s.outq ++ [{ tag := .keyEcho, char := hexDigit (nibbleAt s.key s.idx) }] } := by
  simp only [State.pushNext, State.nextEntry, hf]

theorem pushNext_emit (hf : s.fsm = .emit) :
    s.pushNext =
      { s with outq := s.outq ++ [{ tag := .ciphertext, char := hexDigit (nibbleAt s.st s.idx) }] } := by
  simp only [State.pushNext, State.nextEntry, hf]

theorem outputStep_of_more (hroom : s.outq.length < s.outDepth) (hidx : s.idx.val < 31) :
    s.outputStep = { s.pushNext with idx := ⟨s.idx.val + 1, by omega⟩ } :=
  (outputStep_of_room hroom).trans (advance_of_lt (s := s.pushNext) hidx)

theorem outputStep_of_last (hroom : s.outq.length < s.outDepth) (hidx : s.idx = 31) :
    s.outputStep = s.pushNext.afterOutput :=
  (outputStep_of_room hroom).trans (if_pos hidx)

/-- Past a digit, only the registers of the engine change: not the FIFO, and not what the host has received. -/
theorem advance_io (s : State) : s.advance.outq = s.outq ∧ s.advance.received = s.received := by
  unfold State.advance
  split
  · obtain ⟨houtq, hreceived, -, -⟩ := afterOutput_io s
    exact ⟨houtq, hreceived⟩
  · exact ⟨rfl, rfl⟩

theorem performed_of_outputs (hf : s.Outputs) (hm : s.fsm.microOp = some i) : performed i s = s.outputStep := by
  rcases hf with hf | hf
  all_goals
    rw [hf] at hm
    cases hm
    simp only [performed, State.outputStep, State.advance, State.afterOutput, State.pushNext, State.nextEntry,
      State.pushOut, State.canPush, decide_eq_true_eq, hf]

theorem exec_of_outputs (hf : s.Outputs) (hm : s.fsm.microOp = some i) : exec i s = .next s.outputStep := by
  rw [exec_of_microOp hm, performed_of_outputs hf hm]

theorem step_of_outputs (hr : s.ports.rst = false) (hf : s.Outputs) : step s = .next (s.endCycle s.outputStep) := by
  obtain ⟨i, hm⟩ : ∃ i, s.fsm.microOp = some i := by
    rcases hf with hf | hf <;> exact ⟨_, by rw [hf]; rfl⟩
  rw [step_of_fetch_run hr (fetch_of_micro hm), exec_of_outputs hf hm]
  rfl

/-- Settles O22, by whether the FIFO has room and whether the digit is the last. -/
theorem echoPushesKeyDigit : Obligations.EchoPushesKeyDigit := by
  intro s hf
  rw [exec_of_outputs (.inl hf) (by rw [hf]; rfl)]
  refine ⟨fun hfull => ?_, fun hroom hidx => ?_, fun hroom hidx => ?_⟩
  · rw [outputStep_of_full hfull]
  · rw [outputStep_of_more hroom hidx, pushNext_echo hf]
    rfl
  · rw [outputStep_of_last hroom hidx, afterOutput_echo (s := s.pushNext) hf, pushNext_echo hf, hidx]
    rfl

/-- Settles O29, by whether the FIFO has room, whether the digit is the last, and then by `last`. -/
theorem emitPushesCiphertextDigit : Obligations.EmitPushesCiphertextDigit := by
  intro s hf
  rw [exec_of_outputs (.inr hf) (by rw [hf]; rfl)]
  have hlast (hroom : s.outq.length < s.outDepth) (hidx : s.idx = 31) :
      s.outputStep =
        { s with
          outq := s.outq ++ [{ tag := .ciphertext, char := hexDigit (s.st[15].extractLsb' 0 4) }]
          msgCnt := 0, done := s.done || s.last, fsm := if s.last then .idle else .accept } := by
    rw [outputStep_of_last hroom hidx, afterOutput_emit (s := s.pushNext) hf, pushNext_emit hf, hidx]
    rfl
  refine ⟨fun hfull => ?_, fun hroom hidx => ?_, fun hroom hidx hl => ?_, fun hroom hidx hl => ?_⟩
  · rw [outputStep_of_full hfull]
  · rw [outputStep_of_more hroom hidx, pushNext_emit hf]
    rfl
  · rw [hlast hroom hidx, hl, Bool.or_true]
    rfl
  · rw [hlast hroom hidx, hl, Bool.or_false]
    rfl

/-! ### A block of digits -/

/-- Settles O44: the 32 steps of `output_run_of_room`, each register read off the engine they leave. -/
theorem emitRunPutsOutBlock : Obligations.EmitRunPutsOutBlock := by
  intro s hf hidx hr hroom
  obtain ⟨t, ht, -, hdone⟩ := output_run_of_room (n := 31) (.inr hf) hr (by rw [hidx]; rfl) hroom
  have he := hdone.engine.trans (afterOutput_emit (s := { s.engine with idx := 31 }) hf)
  refine ⟨t, ht, ?_, ?_, ?_, ?_⟩
  · have hremaining : s.remaining = hexEntries .ciphertext s.st := by
      simp only [State.remaining, hf, hidx]
      rfl
    rw [hdone.stream, hremaining]
  · exact State.reg_of_engine State.msgCnt he (fun _ => rfl) rfl
  · exact State.reg_of_engine State.fsm he (fun _ => rfl) rfl
  · exact State.reg_of_engine State.done he (fun _ => rfl) rfl

/-! ### A push and a pop in one cycle -/

/-- Settles O49: room is judged before the pop, which then takes the head of the FIFO with the new entry behind it. -/
theorem pushAndPopInOneCycle : Obligations.PushAndPopInOneCycle := by
  intro s e q hf hr hready hq
  have hpop : s.pops = true := pops_iff.mpr ⟨by rw [hq]; exact List.cons_ne_nil e q, hr, hready⟩
  refine ⟨fun hroom => ?_, fun hfull => ?_⟩
  · obtain ⟨houtq, hreceived⟩ := advance_io s.pushNext
    have hpush : s.pushNext.advance.outq = e :: (q ++ [s.nextEntry]) := by
      rw [houtq, State.pushNext, hq]
      rfl
    refine ⟨_, s.nextEntry, step_of_outputs hr hf, ?_, ?_⟩
    · rw [outputStep_of_room hroom, endCycle_outq, if_pos hpop, hpush, List.tail_cons]
    · rw [outputStep_of_room hroom, endCycle_received, if_pos hpop, hpush, hreceived]
      rfl
  · rw [step_of_outputs hr hf, outputStep_of_full hfull, endCycle_of_pop s hpop, hq]
    rfl

/-! ### The registers alone -/

/-- The registers that two engines alike share (R207): without the FIFO, its depth and the host. -/
def State.registers (s : State) : State :=
  { s.engine with outDepth := 0, freeCtr := 0 }

theorem sameEngine_iff : s.SameEngine t ↔ s.registers = t.registers := by
  simp [State.SameEngine, State.registers, State.engine]

theorem fsm_of_registers (h : s.registers = s'.registers) : s.fsm = s'.fsm :=
  (congrArg State.fsm h :)

theorem outputs_iff_of_registers (h : s.registers = s'.registers) : s.Outputs ↔ s'.Outputs := by
  rw [State.Outputs, State.Outputs, fsm_of_registers h]

theorem registers_endCycle (s t : State) : (s.endCycle t).registers = t.registers := by
  unfold State.endCycle; split <;> rfl

theorem registers_appendMsg (s : State) (d : Byte) : (s.appendMsg d).registers = s.registers.appendMsg d :=
  apply_dite State.registers _ _ _

/-- An instruction that is not ECHO or EMIT works on the registers alone. -/
theorem registers_performed (hecho : i ≠ .echo) (hemit : i ≠ .emit) :
    (performed i s).registers = performed i s.registers := by
  cases i
  case echo => exact absurd rfl hecho
  case emit => exact absurd rfl hemit
  case nop | keyClr | errClr | rinit | rsub | rshift | rmix => rfl
  case start | kexp | radd => exact apply_ite State.registers _ _ _
  case keyWr => exact apply_dite State.registers _ _ _
  case msgWr d =>
    rw [performed, performed, ← registers_appendMsg]
    exact apply_ite State.registers _ _ _
  case msgEnd =>
    rw [performed, apply_ite State.registers, apply_ite State.registers]
    rfl

theorem registers_raise (s : State) (c : ErrCause) : (s.raise c).registers = s.registers.raise c := by
  cases c <;> rfl

theorem registers_advance (s : State) : s.advance.registers = s.registers.advance := by
  have hlast : s.afterOutput.registers = s.registers.afterOutput := by
    cases hf : s.fsm
    case emit => cases hl : s.last <;> simp [State.afterOutput, State.registers, State.engine, hf, hl]
    all_goals simp [State.afterOutput, State.registers, State.engine, hf]
  rw [State.advance, apply_ite State.registers, hlast]
  rfl

theorem fetch_congr (hf : s.fsm = s'.fsm) (hc : s.ports.cmd = s'.ports.cmd) : s.fetch = s'.fetch := by
  rw [State.fetch, State.fetch, hf, hc]

/-- A fetched instruction that is not enabled is a command, recorded as illegal (R225). -/
theorem exec_of_not_enabled (hf : s.fetch = .run i) (hen : ¬ enabled i s.fsm) :
    exec i s = .next (s.raise (.illegalCmd (encode i).bits)) := by
  rcases fetch_run hf with hm | ⟨hq, w, -, hw⟩
  · exact absurd (.inr hm) hen
  · have hl : legalIn i s.fsm = false := Bool.eq_false_iff.mpr fun hl => hen (.inl hl)
    rw [exec_of_illegal hw hq hl, hw]
    rfl

/-- Two engines alike outside `ECHO` and `EMIT`, with the same word on the port, do alike (R207). -/
theorem engineStep_registers (hno : ¬ s.Outputs) (hregs : s.registers = s'.registers)
    (hc : s.ports.cmd = s'.ports.cmd) (h : engineStep s = .next u) (h' : engineStep s' = .next u') :
    u.registers = u'.registers := by
  have hfsm := fsm_of_registers hregs
  have hfetch := fetch_congr hfsm hc
  rcases engineStep_next h with ⟨hf, rfl⟩ | ⟨w, hf, rfl⟩ | ⟨i, hf, he⟩
  all_goals simp only [engineStep, ← hfetch, hf] at h'
  · cases h'
    exact hregs
  · cases h'
    rw [registers_raise, registers_raise, hregs]
  · by_cases hen : enabled i s.fsm
    · rw [exec_of_enabled hen] at he
      rw [exec_of_enabled (hfsm ▸ hen)] at h'
      cases he
      cases h'
      have hrun := runsIn_of_enabled hen
      have hecho : i ≠ .echo := by
        rintro rfl
        exact hno (.inl hrun)
      have hemit : i ≠ .emit := by
        rintro rfl
        exact hno (.inr hrun)
      rw [registers_performed hecho hemit, registers_performed hecho hemit, hregs]
    · rw [exec_of_not_enabled hf hen] at he
      rw [exec_of_not_enabled (hfetch ▸ hf) (hfsm ▸ hen)] at h'
      cases he
      cases h'
      rw [registers_raise, registers_raise, hregs]

theorem engineStep_stream (hno : ¬ s.Outputs) (h : engineStep s = .next t) : t.stream = s.stream := by
  rcases engineStep_outq h with houtq | ⟨-, hf, -⟩
  · rw [State.stream, State.stream, engineStep_received h, houtq]
  · exact absurd hf hno

/-- An output step with room works on the registers alone, and the entry it pushes is read off them. -/
theorem outputStep_of_room_registers (h : s.outq.length < s.outDepth) :
    s.outputStep.registers = s.registers.advance ∧ s.outputStep.stream = s.stream ++ [s.registers.nextEntry] := by
  rw [outputStep_of_room h]
  constructor
  · rw [registers_advance]
    rfl
  · obtain ⟨houtq, hreceived⟩ := advance_io s.pushNext
    rw [State.stream, houtq, hreceived]
    exact pushNext_stream s

/-- Settles O50: in `ECHO` and `EMIT` with room by `outputStep_of_room_registers`, elsewhere by `engineStep_registers`,
and a full FIFO holds the step there. -/
theorem outputIndependentOfDepthAndPops : Obligations.OutputIndependentOfDepthAndPops := by
  constructor
  · intro s s' t t' hsame hr hr' hc hroom hstep hstep'
    have hregs := sameEngine_iff.mp hsame
    rw [sameEngine_iff]
    by_cases hf : s.Outputs
    · have hf' := (outputs_iff_of_registers hregs).mp hf
      obtain ⟨hroom, hroom'⟩ := hroom hf
      rw [step_of_outputs hr hf] at hstep
      rw [step_of_outputs hr' hf'] at hstep'
      cases hstep
      cases hstep'
      obtain ⟨houtput, hstream⟩ := outputStep_of_room_registers hroom
      obtain ⟨houtput', hstream'⟩ := outputStep_of_room_registers hroom'
      refine ⟨?_, [s.registers.nextEntry], ?_, ?_⟩
      · rw [registers_endCycle, registers_endCycle, houtput, houtput', hregs]
      · rw [endCycle_stream, hstream]
      · rw [endCycle_stream, hstream', hregs]
    · have hf' := (not_congr (outputs_iff_of_registers hregs)).mp hf
      obtain ⟨u, hu, rfl⟩ := step_next_of_noReset hr hstep
      obtain ⟨u', hu', rfl⟩ := step_next_of_noReset hr' hstep'
      refine ⟨?_, [], ?_, ?_⟩
      · rw [registers_endCycle, registers_endCycle, engineStep_registers hf hregs hc hu hu']
      · rw [endCycle_stream, engineStep_stream hf hu, List.append_nil]
      · rw [endCycle_stream, engineStep_stream hf' hu', List.append_nil]
  · intro s t hf hr hfull hstep
    rw [step_of_outputs hr hf, outputStep_of_full hfull] at hstep
    cases hstep
    exact ⟨sameEngine_iff.mpr (registers_endCycle s s), endCycle_stream s s⟩

end Sys2Proof.Machine

/-! PROOFS. A reset cycle (R250, R251): its handshake outputs are 0, and what it leaves is the reset state of R49 but
for the contents of the datapath registers, the FIFO's depth and the host. -/

namespace Sys2Proof.Machine

variable {s : State}

/-! ### The reset cycle -/

theorem cmdReady_of_reset (h : s.ports.rst = true) : s.cmdReady = false := by
  simp [State.cmdReady, h]

theorem outValid_of_reset (h : s.ports.rst = true) : s.outValid = false := by
  simp [State.outValid, State.outPort, h]

/-- What reset leaves differs from the one state `State.reset` only in what R250 leaves open, in the depth and in the
host. -/
theorem applyReset_eq_reset_with (s : State) :
    s.applyReset = { State.reset with
      st := s.applyReset.st, key := s.applyReset.key, w := s.applyReset.w, outDepth := s.outDepth,
      host := s.host, received := s.received, freeCtr := s.applyReset.freeCtr } := rfl

/-- Settles O56: by `step_of_reset` the reset cycle answers `applyReset` with the host moved on, which is the reset
state by `applyReset_eq_reset_with`. -/
theorem resetCycleLoadsResetValues : Obligations.ResetCycleLoadsResetValues := by
  intro s hrst
  refine ⟨cmdReady_of_reset hrst, outValid_of_reset hrst, _, step_of_reset hrst, ?_⟩
  rw [applyReset_eq_reset_with]

end Sys2Proof.Machine
